-- ==== Sys2Proof/Word.lean ====
section
/-! DEFINITION. The word types of the block (00_scope.md R12) and the RGB triple of a colour cell (10_state.md R44). -/

namespace Sys2Proof

/-- A byte: the unit of every access in every address space (20_memory.md R82). -/
abbrev Byte := BitVec 8

/-- An address of the PPU bus, or of the CPU bus for the mapper's CPU side: 16 bits (20_memory.md R70). -/
abbrev Addr := BitVec 16

/-- A VRAM address register, `v` or `t`: 15 bits (10_state.md R29). -/
abbrev VramAddr := BitVec 15

/-- An event word (30_encoding.md R111). -/
abbrev EvtWord := BitVec 8

/-- A port operation word, rw in bit 16 and the CPU address below it (30_encoding.md R116). -/
abbrev PortWord := BitVec 17

/-- The listed cells of a sparse memory: pairs of key and content, with the keys rising (`Machine.Memory.wf`). -/
abbrev Cells (α : Type) := List (Nat × α)

/-- An RGB triple: red, green, blue, one byte each (10_state.md R44). -/
structure Rgb where
  red : Byte
  green : Byte
  blue : Byte
  deriving DecidableEq, Repr, Inhabited

end Sys2Proof
end

