-- ==== Sys2Proof/Machine/Memory.lean ====
section
/-! DEFINITION. Sparse memories: the cells that are listed, keys strictly rising. A key that is not listed reads as nothing here; what the array holds there is its content at construction (Machine/Ops.lean, log 4). -/

namespace Sys2Proof.Machine.Memory

/-- Every key of the list is above `k`, and the keys rise strictly. -/
def rising {α : Type} : Option Nat → Cells α → Bool
  | _, [] => true
  | none, (k, _) :: rest => rising (some k) rest
  | some low, (k, _) :: rest => low < k && rising (some k) rest

/-- The one canonical form of a memory of `size` cells: keys strictly rising, every key below `size`. No listed content
equals what an unlisted key reads as, because an unlisted key reads as nothing. -/
def wf {α : Type} (size : Nat) (m : Cells α) : Bool := rising none m && m.all fun c => c.1 < size

/-- The content listed at a key. -/
def read? {α : Type} : Cells α → Nat → Option α
  | [], _ => none
  | (k, x) :: rest, key => if key = k then some x else read? rest key

/-- Writing a cell keeps the keys rising and leaves every other key alone. -/
def write {α : Type} : Cells α → Nat → α → Cells α
  | [], key, x => [(key, x)]
  | (k, y) :: rest, key, x =>
    if key < k then (key, x) :: (k, y) :: rest
    else if key = k then (key, x) :: rest
    else (k, y) :: write rest key x

/-- An array given whole, element `k` at key `k`. -/
def ofArray {α : Type} : Nat → List α → Cells α
  | _, [] => []
  | k, x :: rest => (k, x) :: ofArray (k + 1) rest

end Sys2Proof.Machine.Memory
end

