-- ==== Sys2Proof/Config.lean ====
section
/-! DEFINITION. What is fixed for the life of a session (10_state.md R21, 00_scope.md R11), what a cartridge collaborator supplies (45_mapper.md R330), and the free values: constants without a body, so that nothing can be proved of what they are. -/

namespace Sys2Proof

/-- The two nametable mirroring modes of a validated cartridge (30_encoding.md R127, 45_mapper.md R331). -/
inductive Mirroring where
  | vertical
  | horizontal
  deriving DecidableEq, Repr

/-- The three event tables, each a list of 341 lists of event words indexed by the dot (30_encoding.md R113). -/
structure EventTables where
  visible : List (List EvtWord)
  prerender : List (List EvtWord)
  vblank : List (List EvtWord)
  deriving DecidableEq, Repr

/-- The configuration of a running session. No operation writes any of it (10_state.md R21).
It stands in the machine's state so that a statement about every state covers every configuration (DESIGN CHOICE, log 3). -/
structure Session where
  /-- MIRRORING, from the cartridge (45_mapper.md R330). -/
  mirroring : Mirroring
  /-- PRG_SIZE: 0x4000 or 0x8000 (45_mapper.md R331). -/
  prgSize : Nat
  /-- The program bytes that are given, by index; an index not listed holds `Config.freePrg` (log 4). -/
  prg : Cells Byte
  /-- The character bytes that are given, by index; an index not listed holds `Config.freeChr` (log 4). -/
  chr : Cells Byte
  /-- EVENT_TABLE (40_scheduler.md R166). -/
  tables : EventTables
  /-- SKIP_REQUIRES_RENDERING (40_scheduler.md R170). -/
  skipRequiresRendering : Bool
  /-- NMI_ON_ENABLE (44_register_ports.md R284). -/
  nmiOnEnable : Bool
  /-- The MODEL's own field: the number every free value of this session is applied to (log 4). -/
  launch : Nat
  deriving DecidableEq, Repr

/-- The mirroring tag as the cartridge collaborator supplies it. The spec gives the two legal tags no numbers
(30_encoding.md R127); `other` is any other tag. -/
inductive MirrorTag where
  | vertical
  | horizontal
  | other (tag : Nat)
  deriving DecidableEq, Repr

/-- A cartridge image before it is validated (45_mapper.md R330): PRG_SIZE is the length of `prg`, CHR_SIZE that of `chr`. -/
structure Cartridge where
  mapperKind : Nat
  mirroring : MirrorTag
  prg : List Byte
  chr : List Byte
  deriving DecidableEq, Repr

/-- The parameters of a session that do not come from the cartridge (00_scope.md R11), and the model's launch number. -/
structure Parameters where
  tables : EventTables
  skipRequiresRendering : Bool
  nmiOnEnable : Bool
  launch : Nat
  deriving DecidableEq, Repr

/-- The byte of primary OAM at an index that nothing has written, in the session of this launch number
(10_state.md R59: arbitrary, fixed at construction; free value, log 4). -/
opaque Config.freeOam : Nat → Nat → Byte

/-- The byte of `vram` at an index that nothing has written (10_state.md R59; free value, log 4). -/
opaque Config.freeVram : Nat → Nat → Byte

/-- The colour of a cell of `color_buf` that nothing has written (10_state.md R59; free value, log 4). -/
opaque Config.freeColour : Nat → Nat → Rgb

/-- The byte of `chr` at an index the session does not list (45_mapper.md R330; free value, log 4). -/
opaque Config.freeChr : Nat → Nat → Byte

/-- The byte of `prg` at an index the session does not list (45_mapper.md R330; free value, log 4). -/
opaque Config.freePrg : Nat → Nat → Byte

/-- SYSTEM_PALETTE, the open parameter: a total function from the 6-bit index to an RGB triple
(00_scope.md R11, 43_pixel.md R269, decision D21; free value, log 5). -/
opaque Config.systemPalette : BitVec 6 → Rgb

end Sys2Proof
end

