-- ==== Sys2Proof/Machine/Bits.lean ====
section
/-! DEFINITION. The bit-field notation of 00_scope.md R12 over bit vectors: one bit, a write of a slice, zero extension to an address, and the bit reversal `rev8`. Reading a slice `x[lo+len-1:lo]` is `x.extractLsb' lo len`. -/

namespace Sys2Proof.Machine

/-- `x[lo+len-1:lo] <- e`: writes only that slice, truncating `e` to its width (R12). -/
def putField {w len : Nat} (x : BitVec w) (lo : Nat) (e : BitVec len) : BitVec w :=
  (x &&& ~~~((BitVec.allOnes len).setWidth w <<< lo)) ||| (e.setWidth w <<< lo)

/-- `x[i] <- ~x[i]`. -/
def flipBit {w : Nat} (x : BitVec w) (i : Nat) : BitVec w := x ^^^ (1#w <<< i)

/-- `zext_16(x)` for `x` of at most 16 bits (R12). -/
def zext16 {w : Nat} (x : BitVec w) : Addr := x.setWidth 16

/-- `{a, b}` of two bits: the two-bit number with `a` in the high bit (R12). -/
def pair (a b : Bool) : BitVec 2 := BitVec.ofBool a ++ BitVec.ofBool b

/-- `rev8(b)`: bit `i` becomes bit `7-i` (R12). -/
def rev8 (b : Byte) : Byte := b.reverse

/-- A byte that repeats one bit eight times: 0xFF or 0x00. -/
def spread (bit : Bool) : Byte := if bit then 0xFF else 0x00

end Sys2Proof.Machine
end

