-- ==== Sys2Proof/Machine/Operands.lean ====
section
/-! DEFINITION. Every address and operand computation of the block, as functions of words: mirroring (20_memory.md R72 to R74), the mapper's translation (45_mapper.md R335, R339), the fetch addresses (41_background.md R193 to R196), the scroll increments and copies (R199 to R202), the sprite address (42_sprites.md R234), the palette address (43_pixel.md R267) and the port writes into `t` (44_register_ports.md R284, R290 to R293). -/

namespace Sys2Proof.Machine

/-! ### The bus address space -/

/-- What an address of the PPU bus resolves to: a cell of `vram`, or the mapper at the same address (20_memory.md R72). -/
inductive Resolved where
  | cell (k : Nat)
  | mapper (a : Addr)
  deriving DecidableEq, Repr

/-- `PalSlot(a)` (20_memory.md R73). -/
def palSlot (a : Addr) : Nat :=
  let i := (a &&& 0x1F).toNat
  if i = 0x10 ∨ i = 0x14 ∨ i = 0x18 ∨ i = 0x1C then i - 0x10 else i

/-- `NtIndex(a)` (20_memory.md R74). -/
def ntIndex (m : Mirroring) (a : Addr) : Nat :=
  let o := (a - 0x2000) &&& 0x0FFF
  match m with
  | .vertical => (o &&& 0x07FF).toNat
  | .horizontal => (((o >>> 1) &&& 0x0400) ||| (o &&& 0x03FF)).toNat

/-- `Resolve(a)`: three regions, tested in the order of 20_memory.md R72. -/
def resolve (m : Mirroring) (a : Addr) : Resolved :=
  if 0x3F00 ≤ a.toNat then .cell (0x800 + palSlot a)
  else if 0x2000 ≤ a.toNat then .cell (ntIndex m a)
  else .mapper a

/-! ### The mapper -/

/-- What the mapper translates an address to (45_mapper.md R333). -/
inductive Location where
  | chr (k : Nat)
  | prg (k : Nat)
  | invalid
  deriving DecidableEq, Repr

/-- `TranslatePpu(a)` (45_mapper.md R335). -/
def translatePpu (a : Addr) : Location := if a.toNat < 0x2000 then .chr a.toNat else .invalid

/-- `TranslateCpu(a)`: `(a - 0x8000) & (PRG_SIZE - 1)` in the program window (45_mapper.md R339). -/
def translateCpu (prgSize : Nat) (a : Addr) : Location :=
  if 0x8000 ≤ a.toNat then .prg ((a.toNat - 0x8000) &&& (prgSize - 1)) else .invalid

/-! ### Fields of `v` and `t` (30_encoding.md R123) -/

/-- `coarse_x`, bits 4:0. -/
def coarseX (v : VramAddr) : BitVec 5 := v.extractLsb' 0 5

/-- `coarse_y`, bits 9:5. -/
def coarseY (v : VramAddr) : BitVec 5 := v.extractLsb' 5 5

/-- `nt_h`, bit 10. -/
def ntH (v : VramAddr) : Bool := v.getLsbD 10

/-- `nt_v`, bit 11. -/
def ntV (v : VramAddr) : Bool := v.getLsbD 11

/-- `fine_y`, bits 14:12. -/
def fineY (v : VramAddr) : BitVec 3 := v.extractLsb' 12 3

/-! ### Background fetch addresses -/

/-- The address `FETCH_NT` reads: `0x2000 | v[11:0]` (41_background.md R193). -/
def ntAddr (v : VramAddr) : Addr := 0x2000 ||| zext16 (v.extractLsb' 0 12)

/-- The address `FETCH_AT` reads (41_background.md R194). -/
def atAddr (v : VramAddr) : Addr :=
  let v := zext16 v
  0x23C0 ||| (v &&& 0x0C00) ||| ((v >>> 4) &&& 0x38) ||| ((v >>> 2) &&& 0x07)

/-- The shift that selects the quadrant of an attribute byte: 4 if `coarse_y[1]`, plus 2 if `coarse_x[1]`
(41_background.md R194). -/
def atShift (v : VramAddr) : Nat := (((v >>> 4) &&& 4) ||| (v &&& 2)).toNat

/-- The two palette-select bits `FETCH_AT` keeps: `zext_8((b >> sh) & 3)` (41_background.md R194). -/
def atSelect (v : VramAddr) (b : Byte) : Byte := (b >>> atShift v) &&& 3

/-- The address of bit plane 0 of the tile's row: `(ctrl[4] << 12) | (nt_latch << 4) | v[14:12]` (41_background.md R195). -/
def patternAddr (ctrl ntLatch : Byte) (v : VramAddr) : Addr :=
  (zext16 (BitVec.ofBool (ctrl.getLsbD 4)) <<< 12) ||| (zext16 ntLatch <<< 4) ||| zext16 (fineY v)

/-! ### Scroll increments and copies -/

/-- The coarse-X increment (41_background.md R199). -/
def incCoarseX (v : VramAddr) : VramAddr :=
  if coarseX v = 31 then flipBit (putField v 0 (0 : BitVec 5)) 10 else putField v 0 (coarseX v + 1)

/-- The vertical increment (41_background.md R200). -/
def incVertical (v : VramAddr) : VramAddr :=
  if (fineY v).toNat < 7 then putField v 12 (fineY v + 1)
  else
    let u := putField v 12 (0 : BitVec 3)
    if coarseY v = 29 then flipBit (putField u 5 (0 : BitVec 5)) 11
    else if coarseY v = 31 then putField u 5 (0 : BitVec 5)
    else putField u 5 (coarseY v + 1)

/-- The horizontal scroll bits of `t` into `v`: `(v & ~0x041F) | (t & 0x041F)` (41_background.md R201). -/
def copyHorizontal (v t : VramAddr) : VramAddr := (v &&& ~~~0x041F) ||| (t &&& 0x041F)

/-- The vertical scroll bits of `t` into `v`: `(v & ~0x7BE0) | (t & 0x7BE0)` (41_background.md R202). -/
def copyVertical (v t : VramAddr) : VramAddr := (v &&& ~~~0x7BE0) ||| (t &&& 0x7BE0)

/-! ### What the port writes move into `t` (44_register_ports.md) -/

/-- `t[11:10] <- val[1:0]`, the control write (R284). -/
def tFromCtrl (t : VramAddr) (val : Byte) : VramAddr := putField t 10 (val.extractLsb' 0 2)

/-- `t[4:0] <- val[7:3]`, the first scroll write (R290). -/
def tFromScrollX (t : VramAddr) (val : Byte) : VramAddr := putField t 0 (val.extractLsb' 3 5)

/-- `t[14:12] <- val[2:0]; t[9:5] <- val[7:3]`, the second scroll write (R291). -/
def tFromScrollY (t : VramAddr) (val : Byte) : VramAddr :=
  putField (putField t 12 (val.extractLsb' 0 3)) 5 (val.extractLsb' 3 5)

/-- `t[13:8] <- val[5:0]; t[14] <- 0`, the first address write (R292). -/
def tFromAddrHigh (t : VramAddr) (val : Byte) : VramAddr :=
  putField (putField t 8 (val.extractLsb' 0 6)) 14 (0 : BitVec 1)

/-- `t[7:0] <- val`, the second address write (R293). -/
def tFromAddrLow (t : VramAddr) (val : Byte) : VramAddr := putField t 0 val

/-! ### The data port -/

/-- The address the data port presents: `v & 0x3FFF` (20_memory.md R79). -/
def dataAddr (v : VramAddr) : Addr := zext16 (v &&& 0x3FFF)

/-- The address increment after every access of port 7: 32 if `ctrl[2]`, else 1, modulo 2^15 (44_register_ports.md R295). -/
def incDataAddr (ctrl : Byte) (v : VramAddr) : VramAddr := v + (if ctrl.getLsbD 2 then 32 else 1)

/-! ### Sprites -/

/-- The sprite height `h`: 16 if `ctrl[5]`, else 8 (42_sprites.md R226). -/
def spriteHeight (ctrl : Byte) : Nat := if ctrl.getLsbD 5 then 16 else 8

/-- `SprAddr(i)` from the slot's Y, tile and attribute bytes (42_sprites.md R234). -/
def sprAddr (ctrl : Byte) (scanline : Nat) (y tile attr : Byte) : Addr :=
  let row : Byte := BitVec.ofInt 8 ((scanline : Int) - y.toNat)
  if ctrl.getLsbD 5 then
    let r : BitVec 4 := row.extractLsb' 0 4
    let r : BitVec 4 := if attr.getLsbD 7 then 15 - r else r
    (zext16 (tile.extractLsb' 0 1) <<< 12) ||| (zext16 (tile.extractLsb' 1 7) <<< 5)
      ||| (zext16 (r.extractLsb' 3 1) <<< 4) ||| zext16 (r.extractLsb' 0 3)
  else
    let r : BitVec 3 := row.extractLsb' 0 3
    let r : BitVec 3 := if attr.getLsbD 7 then 7 - r else r
    (zext16 (BitVec.ofBool (ctrl.getLsbD 3)) <<< 12) ||| (zext16 tile <<< 4) ||| zext16 r

/-! ### Pixels -/

/-- A background pixel: its two plane bits and its palette (43_pixel.md R262). -/
structure BgPixel where
  pix : BitVec 2
  pal : BitVec 2
  deriving DecidableEq, Repr

/-- A sprite pixel: its two plane bits, its palette, its priority bit, and whether it comes from slot 0 holding primary
sprite 0 (43_pixel.md R263). -/
structure SprPixel where
  pix : BitVec 2
  pal : BitVec 2
  behind : Bool
  isZero : Bool
  deriving DecidableEq, Repr

/-- No opaque sprite pixel at this column (43_pixel.md R263). -/
def SprPixel.transparent : SprPixel := { pix := 0, pal := 0, behind := false, isZero := false }

/-- The palette address of a background colour: `0x3F00 | (bg_pal << 2) | bg_pix` (43_pixel.md R267). -/
def bgPaletteAddr (b : BgPixel) : Addr := 0x3F00 ||| (zext16 b.pal <<< 2) ||| zext16 b.pix

/-- The palette address of a sprite colour: `0x3F10 | (spr_pal << 2) | spr_pix` (43_pixel.md R267). -/
def sprPaletteAddr (p : SprPixel) : Addr := 0x3F10 ||| (zext16 p.pal <<< 2) ||| zext16 p.pix

/-- `PaletteAddress` (43_pixel.md R267). -/
def paletteAddr (b : BgPixel) (p : SprPixel) : Addr :=
  if b.pix = 0 ∧ p.pix = 0 then 0x3F00
  else if b.pix = 0 then sprPaletteAddr p
  else if p.pix = 0 then bgPaletteAddr b
  else if p.behind then bgPaletteAddr b
  else sprPaletteAddr p

/-- The 6-bit colour index of a palette byte: `& 0x3F` (43_pixel.md R268). -/
def colourIndex (b : Byte) : BitVec 6 := b.extractLsb' 0 6

/-- The flat index of a cell of `color_buf`: `s * 341 + d` (10_state.md R44). -/
def colourCell (scanline : Fin 262) (dot : Fin 341) : Nat := scanline.val * 341 + dot.val

/-- The position is in the visible window, rows 0..239 and columns 1..256 of `color_buf` (10_state.md R44). -/
def inVisibleWindow (scanline : Fin 262) (dot : Fin 341) : Bool :=
  decide (scanline.val ≤ 239) && decide (1 ≤ dot.val) && decide (dot.val ≤ 256)

end Sys2Proof.Machine
end

