-- ==== Sys2Proof/Syntax.lean ====
section
/-! DEFINITION. The instructions: one constructor for each row of spec/opcode_table.json, the 23 events of 30_encoding.md R112 and the 17 port word patterns of R117; and the code an instruction is encoded in. -/

namespace Sys2Proof

/-- An operation of the block. The first 23 are events, executed by `AdvanceOneDot` from the event list of the position;
the other 17 are port operations, performed by the CPU-facing path between two dots.

`slot` is the sprite slot of the event word, bits 2:0 (R111). `mirror` is bits 12:3 of the port word, which select nothing
(R116); they are kept so that a word can be written back whole. `val` is the byte a port write carries.
A DMA write carries the page byte and the 256 bytes the CPU side fetched (44_register_ports.md R300). -/
inductive Instr where
  | noneEvt
  | fetchNt
  | fetchAt
  | fetchPtLo
  | fetchPtHi
  | shift
  | reload
  | incX
  | incY
  | copyX
  | copyY
  | oamaddrClear
  | clearStatus
  | vblankSet
  | evalReset
  | secClear
  | sprEval
  | sprLatch
  | sprNone
  | sprLoad (slot : BitVec 3)
  | sprFetchLo (slot : BitVec 3)
  | sprFetchHi (slot : BitVec 3)
  | pixel
  | wrCtrl (mirror : BitVec 10) (val : Byte)
  | wrMask (mirror : BitVec 10) (val : Byte)
  | wrStatus (mirror : BitVec 10) (val : Byte)
  | wrOamaddr (mirror : BitVec 10) (val : Byte)
  | wrOamdata (mirror : BitVec 10) (val : Byte)
  | wrScroll (mirror : BitVec 10) (val : Byte)
  | wrAddr (mirror : BitVec 10) (val : Byte)
  | wrData (mirror : BitVec 10) (val : Byte)
  | rdStatus (mirror : BitVec 10)
  | rdOamdata (mirror : BitVec 10)
  | rdData (mirror : BitVec 10)
  | rdOpenP0 (mirror : BitVec 10)
  | rdOpenP1 (mirror : BitVec 10)
  | rdOpenP3 (mirror : BitVec 10)
  | rdOpenP5 (mirror : BitVec 10)
  | rdOpenP6 (mirror : BitVec 10)
  | wrOamdma (page : Byte) (data : List Byte)
  deriving DecidableEq, Repr

/-- The code of an operation, by format (30_encoding.md R110): an event word, or a port word with the operand bytes
that go with it (log 11). -/
inductive Code where
  | evt (word : EvtWord)
  | port (word : PortWord) (operands : List Byte)
  deriving DecidableEq, Repr

/-- The operation is an event (format EVT). -/
def Instr.isEvent : Instr → Bool
  | .noneEvt | .fetchNt | .fetchAt | .fetchPtLo | .fetchPtHi | .shift | .reload | .incX | .incY | .copyX | .copyY
  | .oamaddrClear | .clearStatus | .vblankSet | .evalReset | .secClear | .sprEval | .sprLatch | .sprNone
  | .sprLoad _ | .sprFetchLo _ | .sprFetchHi _ | .pixel => true
  | .wrCtrl _ _ | .wrMask _ _ | .wrStatus _ _ | .wrOamaddr _ _ | .wrOamdata _ _ | .wrScroll _ _ | .wrAddr _ _
  | .wrData _ _ | .rdStatus _ | .rdOamdata _ | .rdData _ | .rdOpenP0 _ | .rdOpenP1 _ | .rdOpenP3 _ | .rdOpenP5 _
  | .rdOpenP6 _ | .wrOamdma _ _ => false

/-- The event is gated: it does nothing while `rendering = 0` (40_scheduler.md R156, the column of 30_encoding.md R112). -/
def Instr.isGated : Instr → Bool
  | .fetchNt | .fetchAt | .fetchPtLo | .fetchPtHi | .shift | .reload | .incX | .incY | .copyX | .copyY
  | .oamaddrClear | .evalReset | .secClear | .sprEval | .sprLatch
  | .sprLoad _ | .sprFetchLo _ | .sprFetchHi _ => true
  | .noneEvt | .clearStatus | .vblankSet | .sprNone | .pixel => false
  | .wrCtrl _ _ | .wrMask _ _ | .wrStatus _ _ | .wrOamaddr _ _ | .wrOamdata _ _ | .wrScroll _ _ | .wrAddr _ _
  | .wrData _ _ | .rdStatus _ | .rdOamdata _ | .rdData _ | .rdOpenP0 _ | .rdOpenP1 _ | .rdOpenP3 _ | .rdOpenP5 _
  | .rdOpenP6 _ | .wrOamdma _ _ => false

end Sys2Proof
end

