-- ==== Sys2Proof/WellFormed.lean ====
section
/-! DEFINITION. Which terms of Instr are operations of the block. The widths of slot, mirror and val are in their types, so one check is left: a DMA write carries exactly 256 data bytes (44_register_ports.md R300). -/

namespace Sys2Proof

/-- The operation is one the block has. -/
def Instr.wellFormed : Instr → Bool
  | .wrOamdma _ data => data.length == 256
  | .noneEvt | .fetchNt | .fetchAt | .fetchPtLo | .fetchPtHi | .shift | .reload | .incX | .incY | .copyX | .copyY
  | .oamaddrClear | .clearStatus | .vblankSet | .evalReset | .secClear | .sprEval | .sprLatch | .sprNone
  | .sprLoad _ | .sprFetchLo _ | .sprFetchHi _ | .pixel => true
  | .wrCtrl _ _ | .wrMask _ _ | .wrStatus _ _ | .wrOamaddr _ _ | .wrOamdata _ _ | .wrScroll _ _ | .wrAddr _ _
  | .wrData _ _ | .rdStatus _ | .rdOamdata _ | .rdData _ | .rdOpenP0 _ | .rdOpenP1 _ | .rdOpenP3 _ | .rdOpenP5 _
  | .rdOpenP6 _ => true

end Sys2Proof
end

