-- ==== Sys2Proof/Decode.lean ====
section
/-! DEFINITION. The decoder of both formats, total and rejecting by name, and the encoder, each from the tables of 30_encoding.md R111, R112, R116, R117. -/

namespace Sys2Proof

/-- Why a code is no operation of the block. -/
inductive DecodeError where
  /-- An event opcode 23..31 (R114). -/
  | reservedOpcode (word : EvtWord)
  /-- A slot other than 0 on an event that has no slot (R114). -/
  | slotOnSlotlessEvent (word : EvtWord)
  /-- A port word that does not select this block (R117). -/
  | notAnOperation (word : PortWord)
  /-- A port word with a number of operand bytes that is not the one its operation carries (log 11). -/
  | operandBytes (word : PortWord) (given : Nat)
  deriving DecidableEq, Repr

/-- What the decoder answers: an operation, or the reason there is none. -/
inductive Decoded where
  | ok (i : Instr)
  | error (e : DecodeError)
  deriving DecidableEq, Repr

/-- The code is an operation of the block. -/
def Decoded.isOk : Decoded → Bool
  | .ok _ => true
  | .error _ => false

/-- The operation, if there is one. -/
def Decoded.toOption : Decoded → Option Instr
  | .ok i => some i
  | .error _ => none

/-- An event without a slot field: its slot bits must be 0 (R111, R114). -/
def slotless (w : EvtWord) (i : Instr) : Decoded :=
  if w.extractLsb' 0 3 = 0 then .ok i else .error (.slotOnSlotlessEvent w)

/-- Decoding an event word: `op = w[7:3]`, `slot = w[2:0]` (R111, R112). -/
def decodeEvt (w : EvtWord) : Decoded :=
  match (w.extractLsb' 3 5).toNat with
  | 0 => slotless w .noneEvt
  | 1 => slotless w .fetchNt
  | 2 => slotless w .fetchAt
  | 3 => slotless w .fetchPtLo
  | 4 => slotless w .fetchPtHi
  | 5 => slotless w .shift
  | 6 => slotless w .reload
  | 7 => slotless w .incX
  | 8 => slotless w .incY
  | 9 => slotless w .copyX
  | 10 => slotless w .copyY
  | 11 => slotless w .oamaddrClear
  | 12 => slotless w .clearStatus
  | 13 => slotless w .vblankSet
  | 14 => slotless w .evalReset
  | 15 => slotless w .secClear
  | 16 => slotless w .sprEval
  | 17 => slotless w .sprLatch
  | 18 => slotless w .sprNone
  | 19 => .ok (.sprLoad (w.extractLsb' 0 3))
  | 20 => .ok (.sprFetchLo (w.extractLsb' 0 3))
  | 21 => .ok (.sprFetchHi (w.extractLsb' 0 3))
  | 22 => slotless w .pixel
  | _ => .error (.reservedOpcode w)

/-- The port write of the window with this port number (R117). -/
def portWrite (port : BitVec 3) (mirror : BitVec 10) (val : Byte) : Instr :=
  match port.toNat with
  | 0 => .wrCtrl mirror val
  | 1 => .wrMask mirror val
  | 2 => .wrStatus mirror val
  | 3 => .wrOamaddr mirror val
  | 4 => .wrOamdata mirror val
  | 5 => .wrScroll mirror val
  | 6 => .wrAddr mirror val
  | _ => .wrData mirror val

/-- The port read of the window with this port number (R117). -/
def portRead (port : BitVec 3) (mirror : BitVec 10) : Instr :=
  match port.toNat with
  | 0 => .rdOpenP0 mirror
  | 1 => .rdOpenP1 mirror
  | 2 => .rdStatus mirror
  | 3 => .rdOpenP3 mirror
  | 4 => .rdOamdata mirror
  | 5 => .rdOpenP5 mirror
  | 6 => .rdOpenP6 mirror
  | _ => .rdData mirror

/-- The port word is the one word of the OAM-DMA port: a write to CPU address 0x4014 (R116). -/
def isDmaWord (w : PortWord) : Bool := w == 0x14014#17

/-- The port word selects the window of the eight ports: `addr[15:13] = 0b001` (R116). -/
def inWindow (w : PortWord) : Bool := w.extractLsb' 13 3 == 1#3

/-- How many operand bytes the operation of this word carries: none for a read, one for a write, the page byte and the
256 data bytes for the DMA write (log 11). -/
def operandCount (w : PortWord) : Nat :=
  if isDmaWord w then 257 else if w.getLsbD 16 then 1 else 0

/-- Decoding a port operation: the word, `rw = w[16]`, `addr = w[15:0]`, `port = addr[2:0]` (R116, R117), and its
operand bytes. -/
def decodePort (w : PortWord) (operands : List Byte) : Decoded :=
  if isDmaWord w then
    match operands with
    | page :: data => if data.length = 256 then .ok (.wrOamdma page data) else .error (.operandBytes w operands.length)
    | [] => .error (.operandBytes w 0)
  else if inWindow w then
    if w.getLsbD 16 then
      match operands with
      | [val] => .ok (portWrite (w.extractLsb' 0 3) (w.extractLsb' 3 10) val)
      | _ => .error (.operandBytes w operands.length)
    else
      match operands with
      | [] => .ok (portRead (w.extractLsb' 0 3) (w.extractLsb' 3 10))
      | _ => .error (.operandBytes w operands.length)
  else .error (.notAnOperation w)

/-- Decoding a code of either format. The length and the meaning of the bits follow from the format alone (R110). -/
def decode : Code → Decoded
  | .evt w => decodeEvt w
  | .port w operands => decodePort w operands

/-- The event word with this opcode and slot (R111). -/
def evtWord (op : BitVec 5) (slot : BitVec 3) : EvtWord := op ++ slot

/-- The word of a port of the window: rw, then 0b001, the ten bits that select nothing, the port number (R116). -/
def windowWord (rw : Bool) (mirror : BitVec 10) (port : BitVec 3) : PortWord :=
  ((BitVec.ofBool rw ++ 1#3) ++ mirror) ++ port

/-- The code of an operation, from the same tables (R112, R117). -/
def encode : Instr → Code
  | .noneEvt => .evt (evtWord 0 0)
  | .fetchNt => .evt (evtWord 1 0)
  | .fetchAt => .evt (evtWord 2 0)
  | .fetchPtLo => .evt (evtWord 3 0)
  | .fetchPtHi => .evt (evtWord 4 0)
  | .shift => .evt (evtWord 5 0)
  | .reload => .evt (evtWord 6 0)
  | .incX => .evt (evtWord 7 0)
  | .incY => .evt (evtWord 8 0)
  | .copyX => .evt (evtWord 9 0)
  | .copyY => .evt (evtWord 10 0)
  | .oamaddrClear => .evt (evtWord 11 0)
  | .clearStatus => .evt (evtWord 12 0)
  | .vblankSet => .evt (evtWord 13 0)
  | .evalReset => .evt (evtWord 14 0)
  | .secClear => .evt (evtWord 15 0)
  | .sprEval => .evt (evtWord 16 0)
  | .sprLatch => .evt (evtWord 17 0)
  | .sprNone => .evt (evtWord 18 0)
  | .sprLoad slot => .evt (evtWord 19 slot)
  | .sprFetchLo slot => .evt (evtWord 20 slot)
  | .sprFetchHi slot => .evt (evtWord 21 slot)
  | .pixel => .evt (evtWord 22 0)
  | .wrCtrl mirror val => .port (windowWord true mirror 0) [val]
  | .wrMask mirror val => .port (windowWord true mirror 1) [val]
  | .wrStatus mirror val => .port (windowWord true mirror 2) [val]
  | .wrOamaddr mirror val => .port (windowWord true mirror 3) [val]
  | .wrOamdata mirror val => .port (windowWord true mirror 4) [val]
  | .wrScroll mirror val => .port (windowWord true mirror 5) [val]
  | .wrAddr mirror val => .port (windowWord true mirror 6) [val]
  | .wrData mirror val => .port (windowWord true mirror 7) [val]
  | .rdStatus mirror => .port (windowWord false mirror 2) []
  | .rdOamdata mirror => .port (windowWord false mirror 4) []
  | .rdData mirror => .port (windowWord false mirror 7) []
  | .rdOpenP0 mirror => .port (windowWord false mirror 0) []
  | .rdOpenP1 mirror => .port (windowWord false mirror 1) []
  | .rdOpenP3 mirror => .port (windowWord false mirror 3) []
  | .rdOpenP5 mirror => .port (windowWord false mirror 5) []
  | .rdOpenP6 mirror => .port (windowWord false mirror 6) []
  | .wrOamdma page data => .port 0x14014#17 (page :: data)

/-- The code whose bits are `w`, where the table gives the row `nbits` bits: an event word for a row of one byte, and else
a port word, with every operand byte 0 (log 11). None where a bit of `w` lies above the format's word. -/
def tableCode (nbits w : Nat) : Option Code :=
  if nbits ≤ 8 then
    if w < 2 ^ 8 then some (.evt (BitVec.ofNat 8 w)) else none
  else
    if w < 2 ^ 17 then
      some (.port (BitVec.ofNat 17 w) (List.replicate (operandCount (BitVec.ofNat 17 w)) 0))
    else none

/-- The instruction the decoder reads from a word numbered as spec/opcode_table.json numbers it. -/
def decodeTableWord (nbits w : Nat) : Option Instr :=
  match tableCode nbits w with
  | some c => (decode c).toOption
  | none => none

end Sys2Proof
end

