-- ==== Sys2Proof/Machine/EventTable.lean ====
section
/-! DEFINITION. The Event Table Builder (00_scope.md R2): the line notation and its macros (30_encoding.md R130, R131), the decided tables (40_scheduler.md R160 to R162), the check of construction (R114), and what the spec asks of any table (40_scheduler.md R157, R159). -/

namespace Sys2Proof.Machine

/-- A line of the table notation: the event is appended to the list of every dot `first, first + step, …` not above `last`
(R130). -/
structure TableLine where
  first : Nat
  last : Nat
  step : Nat
  event : Instr
  deriving DecidableEq, Repr

/-- The line names this dot. -/
def TableLine.names (l : TableLine) (d : Nat) : Bool :=
  l.first.ble d && d.ble l.last && ((d - l.first) % l.step).beq 0

/-- A line for one dot. -/
def lineAt (d : Nat) (e : Instr) : TableLine := ⟨d, d, 1, e⟩

/-- A line for a range `a..b`. -/
def lineOn (a b : Nat) (e : Instr) : TableLine := ⟨a, b, 1, e⟩

/-- A line for a stepped range `a..b step k`. -/
def lineEvery (a b k : Nat) (e : Instr) : TableLine := ⟨a, b, k, e⟩

/-- The macro `BG_GROUP <table> d0`, for `d0 = a, a + 8, …, b`: its five lines, each at every `d0` (R131). -/
def bgGroups (a b : Nat) : List TableLine :=
  [lineEvery a b 8 .fetchNt, lineEvery (a + 2) (b + 2) 8 .fetchAt, lineEvery (a + 4) (b + 4) 8 .fetchPtLo,
   lineEvery (a + 6) (b + 6) 8 .fetchPtHi, lineEvery (a + 7) (b + 7) 8 .incX]

/-- The macro `SPR_SLOT i` (R131). -/
def sprSlot (i : Nat) : List TableLine :=
  [lineAt (257 + 8 * i) (.sprLoad (BitVec.ofNat 3 i)), lineAt (261 + 8 * i) (.sprFetchLo (BitVec.ofNat 3 i)),
   lineAt (263 + 8 * i) (.sprFetchHi (BitVec.ofNat 3 i))]

/-- The word an event is written as in a table; a port operation is no event and has none. -/
def tableWord? (i : Instr) : Option EvtWord :=
  match encode i with
  | .evt w => some w
  | .port _ _ => none

/-- The list of one dot: the lines that name it, top to bottom (R130). -/
def buildList (lines : List TableLine) (d : Nat) : List EvtWord :=
  lines.filterMap fun l => if l.names d then tableWord? l.event else none

/-- A table: the lists of dots 0..340 (R113). -/
def buildTable (lines : List TableLine) : List (List EvtWord) :=
  (List.range 341).map (buildList lines)

/-- The lines both rendering tables open with: `SHIFT`, `RELOAD`, the 34 groups of fetches, `INC_Y`, `COPY_X`
(R160, R161). -/
def fetchLines : List TableLine :=
  [lineOn 2 257 .shift, lineOn 322 337 .shift, lineEvery 9 257 8 .reload, lineEvery 329 337 8 .reload]
  ++ bgGroups 1 249 ++ bgGroups 321 329
  ++ [lineAt 256 .incY, lineAt 257 .copyX]

/-- The decided `visible` table, line by line (R160). -/
def visibleLines : List TableLine :=
  fetchLines
  ++ [lineOn 257 320 .oamaddrClear, lineAt 1 .evalReset, lineEvery 2 64 2 .secClear, lineEvery 65 191 2 .sprEval,
      lineAt 257 .sprLatch]
  ++ (List.range 8).flatMap sprSlot
  ++ [lineOn 1 256 .pixel]

/-- The decided `prerender` table, line by line (R161). -/
def prerenderLines : List TableLine :=
  [lineAt 1 .clearStatus] ++ fetchLines
  ++ [lineAt 304 .copyY, lineOn 257 320 .oamaddrClear, lineAt 257 .sprNone]

/-- The decided `vblank` table (R162). -/
def vblankLines : List TableLine := [lineAt 1 .vblankSet]

/-- The decided EVENT_TABLE (R160 to R162). -/
def decidedTables : EventTables :=
  { visible := buildTable visibleLines, prerender := buildTable prerenderLines, vblank := buildTable vblankLines }

/-- MAX_EVENTS: the bound on the length of a list (00_scope.md R11, 30_encoding.md R113). -/
abbrev maxEvents : Nat := 8

/-- The table has one list a dot, each of at most MAX_EVENTS legal event words (R113, R114). -/
def tableValid (t : List (List EvtWord)) : Bool :=
  t.length == 341 && t.all fun l => decide (l.length ≤ maxEvents) && l.all fun w => (decodeEvt w).isOk

/-- The check of construction on the event tables (R114). -/
def tablesValid (t : EventTables) : Bool := tableValid t.visible && tableValid t.prerender && tableValid t.vblank

/-- A list padded at its end with `NONE` to MAX_EVENTS entries (R113). -/
def paddedList (l : List EvtWord) : List EvtWord := l ++ List.replicate (maxEvents - l.length) 0

/-- The flat form of the three tables: entry `j` of dot `d` of table `k` is byte `(k * 341 + d) * 8 + j` (R113). -/
def flatTables (t : EventTables) : List EvtWord := (t.visible ++ t.prerender ++ t.vblank).flatMap paddedList

/-- The stage of an event inside its dot (R157). `NONE` pads the end of a list (R113). -/
def stage : Instr → Nat
  | .clearStatus | .vblankSet => 1
  | .shift => 2
  | .reload => 3
  | .fetchNt | .fetchAt | .fetchPtLo | .fetchPtHi => 4
  | .incX => 5
  | .incY => 6
  | .copyX => 7
  | .copyY => 8
  | .oamaddrClear => 9
  | .evalReset | .secClear | .sprEval => 10
  | .sprLatch | .sprNone => 11
  | .sprLoad _ | .sprFetchLo _ | .sprFetchHi _ => 12
  | .pixel => 13
  | .noneEvt => 14
  | .wrCtrl _ _ | .wrMask _ _ | .wrStatus _ _ | .wrOamaddr _ _ | .wrOamdata _ _ | .wrScroll _ _ | .wrAddr _ _
  | .wrData _ _ | .rdStatus _ | .rdOamdata _ | .rdData _ | .rdOpenP0 _ | .rdOpenP1 _ | .rdOpenP3 _ | .rdOpenP5 _
  | .rdOpenP6 _ | .wrOamdma _ _ => 15

/-- The stages never fall, from the first event of the list to the last. -/
def stagesRise : Nat → List EvtWord → Bool
  | _, [] => true
  | low, w :: rest =>
    match decodeEvt w with
    | .ok i => decide (low ≤ stage i) && stagesRise (stage i) rest
    | .error _ => false

/-- Every list of the tables follows the stages of R157. -/
def tablesOrdered (t : EventTables) : Bool :=
  (t.visible ++ t.prerender ++ t.vblank).all (stagesRise 0)

/-- How often a list holds this word. -/
def occurrences (w : EvtWord) (l : List EvtWord) : Nat := l.countP fun u => u.toNat.beq w.toNat

/-- The dots, from `d` on, whose list holds this word, a dot as often as its list holds it. -/
def dotsFrom (w : EvtWord) : Nat → List (List EvtWord) → List Nat
  | _, [] => []
  | d, l :: rest => List.replicate (occurrences w l) d ++ dotsFrom w (d + 1) rest

/-- The dots of a table whose list holds this word, rising, a dot as often as its list holds it. -/
def dotsOf (t : List (List EvtWord)) (w : EvtWord) : List Nat := dotsFrom w 0 t

/-- The first dot of an event that stands on the cadence: that of the visible region. -/
def visibleStart (dots : List Nat) : Nat := dots.headD 0

/-- The dot at which the cadence is taken up again, near the end of the line. -/
def nextLineStart (dots : List Nat) : Nat := dots.getD 32 0

/-- The 8-dot cadence: once every 8 dots, 32 times, and again twice, both parts on the same dots modulo 8. -/
def onCadence (dots : List Nat) : Bool :=
  dots == List.range' (visibleStart dots) 32 8 ++ List.range' (nextLineStart dots) 2 8
  && nextLineStart dots % 8 == visibleStart dots % 8

/-- The fetches' part of the line: the 32 within dots 1..256, the visible region; the two after it, with less than two further
turns of the cadence up to the last dot, near the end of the line. -/
def spansLine (dots : List Nat) : Bool :=
  decide (1 ≤ visibleStart dots) && decide (visibleStart dots + 8 * 31 ≤ 256)
  && decide (256 < nextLineStart dots) && decide (340 < nextLineStart dots + 8 + 16)

/-- In both parts of the line the event stands `low` to `high` dots after the other. -/
def follows (other dots : List Nat) (low high : Nat) : Bool :=
  [(visibleStart other, visibleStart dots), (nextLineStart other, nextLineStart dots)].all fun p =>
    decide (p.1 + low ≤ p.2) && decide (p.2 ≤ p.1 + high)

/-- At this dot the fetches and the increments of the visible part are done, and those of the next scanline's first two tiles
are still to come; an event of stage 7 or later runs after a fetch or an increment of its own dot (R157). -/
def betweenParts (t : List (List EvtWord)) (d : Nat) : Bool :=
  [0x08#8, 0x10#8, 0x18#8, 0x20#8, 0x38#8].all fun w =>
    decide (visibleStart (dotsOf t w) + 8 * 31 ≤ d) && decide (d < nextLineStart (dotsOf t w))

/-- The dots are one unbroken range. -/
def unbroken (dots : List Nat) : Bool := dots == List.range' (dots.headD 0) dots.length

/-- What 40_scheduler.md R159 (a), (b), (c), (e), (f), (g), (i) ask of a rendering table, each as far as the spec's words
fix it (DEDUCED, log 16). -/
def renderingTableAdmissible (t : List (List EvtWord)) : Bool :=
  let fetchNt := dotsOf t 0x08#8
  let reload := dotsOf t 0x30#8
  let incX := dotsOf t 0x38#8
  -- (a) the four fetches: on the cadence across the visible region and again, twice, near the end of the line, a group
  -- within the 8 dots from its nametable fetch, which comes before the two fetches of the tile it names
  ([0x08#8, 0x10#8, 0x18#8, 0x20#8].all fun w =>
    onCadence (dotsOf t w) && spansLine (dotsOf t w) && follows fetchNt (dotsOf t w) 0 7
    -- (b) the reloads: on the cadence, each after the fetches of its group and by the dot they come round again
    && follows (dotsOf t w) reload 1 8)
  && follows fetchNt (dotsOf t 0x18#8) 1 7 && follows fetchNt (dotsOf t 0x20#8) 1 7
  && onCadence reload
  -- (c) the horizontal copy: once, at one fixed dot; (a) the fetches after it are of the next scanline's first two tiles
  && (dotsOf t 0x48#8).length == 1 && (dotsOf t 0x48#8).all (betweenParts t)
  -- (e) coarse X: every 8 dots, within the 8 dots of its group, after the two fetches that name the tile by coarse X
  && onCadence incX && follows fetchNt incX 0 7 && follows (dotsOf t 0x10#8) incX 0 7
  -- (f) the vertical increment: once, at dot 256
  && dotsOf t 0x40#8 == [256]
  -- (g) the OAM address clear: a dot range
  && unbroken (dotsOf t 0x58#8) && dotsOf t 0x58#8 != []
  -- (i) the shifts: one at each of the eight dots up to a reload, which the line must have, and no other
  && reload.all (fun r => decide (7 ≤ r)) && dotsOf t 0x28#8 == reload.flatMap fun r => List.range' (r - 7) 8

/-- What R159 (a) to (g) and (i) place on visible and pre-render scanlines: the fetches, `SHIFT`, `RELOAD`, `INC_X`, `INC_Y`,
the two copies, `OAMADDR_CLEAR`. -/
def renderingWords : List EvtWord := [0x08, 0x10, 0x18, 0x20, 0x28, 0x30, 0x38, 0x40, 0x48, 0x50, 0x58]

/-- An admissible EVENT_TABLE: a table construction accepts (R159 (j)), in the order of R157, that meets the constraints
of R159, `COPY_Y` (d) and `VBLANK_SET` (h) among them; the fixed dots of (c) and (g) are those of both rendering tables
(DEDUCED, log 16). -/
def tablesAdmissible (t : EventTables) : Bool :=
  tablesValid t && tablesOrdered t
  && renderingTableAdmissible t.visible && renderingTableAdmissible t.prerender
  && dotsOf t.visible 0x48#8 == dotsOf t.prerender 0x48#8 && dotsOf t.visible 0x58#8 == dotsOf t.prerender 0x58#8
  -- (d) the vertical copy: once, on the pre-render scanline; (a) with `INC_Y` done, before the fetches near the end
  && dotsOf t.visible 0x50#8 == [] && (dotsOf t.prerender 0x50#8).length == 1
  && (dotsOf t.prerender 0x50#8).all (fun d => decide (256 ≤ d) && betweenParts t.prerender d)
  && renderingWords.all (fun w => dotsOf t.vblank w == [])
  -- (h) the VBlank flag: once, on the VBlank scanline
  && (dotsOf t.vblank 0x68#8).length == 1 && dotsOf t.visible 0x68#8 == [] && dotsOf t.prerender 0x68#8 == []

end Sys2Proof.Machine
end

