-- ==== Sys2Proof/Machine/State.lean ====
section
/-! DEFINITION. The machine's state, all of 10_state.md R60, grouped by the unit that owns it; the reasons a step can stop; and the state after construction (10_state.md R57, 70_reset_and_hazards.md R392). INVENTORY.md lists every field with its rule. -/

namespace Sys2Proof.Machine

/-- The registers the ports write whole, and the two bus bytes (10_state.md R22, R23, R26 to R28). -/
structure Regs where
  ctrl : Byte
  mask : Byte
  oamAddr : Byte
  ioBus : Byte
  dataBuf : Byte
  deriving DecidableEq, Repr

/-- The three bits of `status` that have storage: bits 7, 6 and 5 (10_state.md R24). -/
structure Status where
  vblank : Bool
  spr0Hit : Bool
  overflow : Bool
  deriving DecidableEq, Repr

/-- The scroll state (10_state.md R29). -/
structure Scroll where
  v : VramAddr
  t : VramAddr
  fineX : BitVec 3
  w : Bool
  deriving DecidableEq, Repr

/-- The background latches and shift registers (10_state.md R31 to R35). -/
structure Background where
  ntLatch : Byte
  atLatch : Byte
  ptLoLatch : Byte
  ptHiLatch : Byte
  bgShiftLo : BitVec 16
  bgShiftHi : BitVec 16
  atShiftLo : BitVec 16
  atShiftHi : BitVec 16
  deriving DecidableEq, Repr

/-- Secondary OAM, the counts, and the eight sprite slots (10_state.md R37 to R39). -/
structure Sprites where
  secOam : Vector Byte 32
  secCount : Fin 9
  spr0Next : Bool
  sprCount : Fin 9
  spr0Cur : Bool
  patLo : Vector Byte 8
  patHi : Vector Byte 8
  attr : Vector Byte 8
  x : Vector Byte 8
  deriving DecidableEq, Repr

/-- The two suppression flags (10_state.md R40). -/
structure Suppress where
  vbl : Bool
  nmi : Bool
  deriving DecidableEq, Repr

/-- The counters; scanline and dot together are the position (10_state.md R41 to R43). -/
structure Timing where
  cycles : Nat
  scanline : Fin 262
  dot : Fin 341
  oddFrame : Bool
  deriving DecidableEq, Repr

/-- What an `InvariantViolation` records: the offending index or address (60_exceptions.md R350, log 7). -/
inductive Violation where
  /-- An index out of its array, as an integer. -/
  | index (i : Int)
  /-- A mapper address the translation calls `Invalid`. -/
  | address (a : Addr)
  /-- An illegal event word met while running. -/
  | eventWord (w : EvtWord)
  /-- A position no list of the event tables stands for. -/
  | noEventList (scanline dot : Nat)
  /-- A position whose list is longer than MAX_EVENTS. -/
  | overlongList (scanline dot : Nat)
  deriving DecidableEq, Repr

/-- Which check of construction failed (60_exceptions.md R350, 45_mapper.md R331, 30_encoding.md R114). -/
inductive ConfigCheck where
  | mapperKind
  | mirroringTag
  | prgSize
  | chrSize
  | eventTable
  deriving DecidableEq, Repr

/-- A fault as the block records it (10_state.md R52, 60_exceptions.md R350). -/
inductive FaultInfo where
  /-- Code 1. Raised by construction only, which then leaves no state; so no state of a session records it. -/
  | configError (check : ConfigCheck)
  /-- Code 2. -/
  | invariantViolation (info : Violation)
  /-- Code 3. -/
  | illegalCartridgeWrite (a : Addr)
  deriving DecidableEq, Repr

/-- What an operation returns to its caller: a byte of a port or of the mapper, a boolean of a query, a colour. -/
inductive Answer where
  | byte (b : Byte)
  | flag (b : Bool)
  | colour (c : Rgb)
  deriving DecidableEq, Repr

/-- What an external agent does to the block between two dots (00_scope.md R9, 30_encoding.md R118). -/
inductive HostMove where
  /-- The driver's `AdvanceOneDot` (40_scheduler.md R150). -/
  | advance
  /-- A port operation: its word and its operand bytes (30_encoding.md R116, log 11). -/
  | port (word : PortWord) (operands : List Byte)
  /-- The driver's `Reset` (70_reset_and_hazards.md R391). -/
  | reset
  /-- The driver's query `RenderingEnabled` (44_register_ports.md R303). -/
  | renderingEnabled
  /-- The CPU side's `irq.clear()` (60_exceptions.md R365). -/
  | irqClear
  /-- The CPU side's `irq.is_asserted()` (60_exceptions.md R365). -/
  | irqIsAsserted
  /-- The presenter's read of one cell of `color_buf` (20_memory.md R94, log 13). -/
  | readColour (scanline : Fin 262) (dot : Fin 341)
  /-- The CPU bus's `MapperReadCpu` (45_mapper.md R340). -/
  | mapperReadCpu (a : Addr)
  /-- The CPU bus's `MapperWriteCpu` (45_mapper.md R341). -/
  | mapperWriteCpu (a : Addr) (b : Byte)
  deriving DecidableEq, Repr

/-- The machine. `cfg` is the session's configuration, which no operation writes (log 3); `moves` and `answer` are the
model's own (logs 1 and 2). -/
structure State where
  cfg : Session
  regs : Regs
  status : Status
  scroll : Scroll
  bg : Background
  spr : Sprites
  sup : Suppress
  time : Timing
  oam : Cells Byte
  vram : Cells Byte
  colorBuf : Cells Rgb
  irqLine : Bool
  fault : Option FaultInfo
  moves : List HostMove
  answer : Option Answer
  deriving DecidableEq, Repr

/-- Why the machine has no step. -/
inductive Fault where
  /-- Raised by `construct`: the cartridge or the event tables are invalid, and no state exists (45_mapper.md R331).
  Safe: the spec gives the machine no state here. -/
  | configError (check : ConfigCheck)
  /-- Raised by every operation of a state that has recorded a fault: no operation of any agent has a step
  (60_exceptions.md R352). Safe: the spec says the same. -/
  | halted (fault : FaultInfo)
  deriving DecidableEq, Repr

/-- Why a move is no operation of the block. -/
inductive Refusal where
  /-- An instruction without a meaning yet. Safe: nothing is claimed of it. -/
  | notModelled (mnemonic : String)
  /-- Raised by the step on a port move whose word selects no operation of the block; the CPU-facing path must not
  present it (30_encoding.md R117). Safe: the block does nothing there. -/
  | notAnOperation (word : PortWord)
  /-- Raised by the step on a port move with a number of operand bytes that is not its operation's (log 11).
  Safe: no such operation exists. -/
  | operandBytes (word : PortWord) (given : Nat)
  /-- Raised by the meaning of `WR_OAMDMA` on a term that does not carry 256 data bytes, which the decoder never gives
  (44_register_ports.md R300, log 12). Safe: no such operation exists. -/
  | illFormedDma (given : Nat)
  deriving DecidableEq, Repr

/-- The registers `Reset` and construction leave: all zero (10_state.md R58). -/
def Regs.zero : Regs := { ctrl := 0, mask := 0, oamAddr := 0, ioBus := 0, dataBuf := 0 }

/-- All three flags 0 (10_state.md R58). -/
def Status.zero : Status := { vblank := false, spr0Hit := false, overflow := false }

/-- The scroll state all zero (10_state.md R58). -/
def Scroll.zero : Scroll := { v := 0, t := 0, fineX := 0, w := false }

/-- The background latches and shift registers all zero (10_state.md R58). -/
def Background.zero : Background :=
  { ntLatch := 0, atLatch := 0, ptLoLatch := 0, ptHiLatch := 0,
    bgShiftLo := 0, bgShiftHi := 0, atShiftLo := 0, atShiftHi := 0 }

/-- Secondary OAM, the counts and the slots all zero (10_state.md R58). -/
def Sprites.zero : Sprites :=
  { secOam := Vector.replicate 32 0, secCount := 0, spr0Next := false, sprCount := 0, spr0Cur := false,
    patLo := Vector.replicate 8 0, patHi := Vector.replicate 8 0, attr := Vector.replicate 8 0, x := Vector.replicate 8 0 }

/-- Both suppression flags 0 (10_state.md R58). -/
def Suppress.zero : Suppress := { vbl := false, nmi := false }

/-- Position (0, 0) of an even frame, no cycle counted (10_state.md R58). -/
def Timing.zero : Timing := { cycles := 0, scanline := 0, dot := 0, oddFrame := false }

/-- The session the model's reset state stands in: a valid cartridge with vertical mirroring and 16 KB of program, none of
whose bytes is given, the decided event tables, and both switches false (DESIGN CHOICE, log 3). -/
def Session.atReset : Session :=
  { mirroring := .vertical, prgSize := 0x4000, prg := [], chr := [], tables := decidedTables,
    skipRequiresRendering := false, nmiOnEnable := false, launch := 0 }

/-- The state construction gives a session: every register, latch and counter zero, no fault, the line de-asserted, and
nothing written yet in `oam`, `vram` and `color_buf` (10_state.md R57, R59). -/
def State.constructed (cfg : Session) : State :=
  { cfg := cfg, regs := Regs.zero, status := Status.zero, scroll := Scroll.zero, bg := Background.zero,
    spr := Sprites.zero, sup := Suppress.zero, time := Timing.zero, oam := [], vram := [], colorBuf := [],
    irqLine := false, fault := none, moves := [], answer := none }

/-- The machine right after construction of the session at reset (70_reset_and_hazards.md R392). -/
def State.reset : State := State.constructed Session.atReset

end Sys2Proof.Machine
end

