-- ==== Sys2Proof/Machine/Ops.lean ====
section
/-! DEFINITION. The named operations over the state that the meanings share: raising a fault, running an operation only while none is recorded, the content of the memories, the mapper and the PPU bus (20_memory.md, 45_mapper.md), the interrupt line (60_exceptions.md R365), and construction (10_state.md R57). -/

namespace Sys2Proof.Machine

/-- What one operation ends in. -/
abbrev Result := Host.Outcome State Fault Refusal

/-! ### Faults (the block's only exceptions) -/

/-- `raise`: the fault is recorded in `fault`, and nothing else is written (00_scope.md R14, 60_exceptions.md R352).
A recorded fault is never changed (10_state.md R52). There is no handler, no vector and no return from a fault (R352), so no
operation stands beside this one. -/
def State.raise (s : State) (f : FaultInfo) : State :=
  match s.fault with
  | some _ => s
  | none => { s with fault := some f }

/-- An operation has no step while a fault is recorded (60_exceptions.md R352); else it takes its next state. -/
def whileLive (op : State → State) (s : State) : Result :=
  match s.fault with
  | some f => .fault (.halted f)
  | none => .next (op s)

/-! ### The content of the memories -/

/-- `oam[k]`; where nothing has written it, its content at construction (10_state.md R36, R59; log 4). -/
def State.oamAt (s : State) (k : Nat) : Byte :=
  (Memory.read? s.oam k).getD (Config.freeOam s.cfg.launch k)

/-- `vram[k]`; where nothing has written it, its content at construction (10_state.md R53, R59; log 4). -/
def State.vramAt (s : State) (k : Nat) : Byte :=
  (Memory.read? s.vram k).getD (Config.freeVram s.cfg.launch k)

/-- The cell of `color_buf` at a position; where nothing has written it, its content at construction
(10_state.md R44, R59; log 4). -/
def State.colourAt (s : State) (scanline : Fin 262) (dot : Fin 341) : Rgb :=
  (Memory.read? s.colorBuf (colourCell scanline dot)).getD (Config.freeColour s.cfg.launch (colourCell scanline dot))

/-- `chr[k]` (45_mapper.md R330; log 4). -/
def State.chrAt (s : State) (k : Nat) : Byte :=
  (Memory.read? s.cfg.chr k).getD (Config.freeChr s.cfg.launch k)

/-- `prg[k]` (45_mapper.md R330; log 4). -/
def State.prgAt (s : State) (k : Nat) : Byte :=
  (Memory.read? s.cfg.prg k).getD (Config.freePrg s.cfg.launch k)

/-- `oam[k] <- b`. -/
def State.setOam (s : State) (k : Nat) (b : Byte) : State := { s with oam := Memory.write s.oam k b }

/-- `vram[k] <- b`: the whole byte, in a palette cell too (20_memory.md R77). -/
def State.setVram (s : State) (k : Nat) (b : Byte) : State := { s with vram := Memory.write s.vram k b }

/-- `color_buf[scanline][dot] <- c`. -/
def State.setColour (s : State) (scanline : Fin 262) (dot : Fin 341) (c : Rgb) : State :=
  { s with colorBuf := Memory.write s.colorBuf (colourCell scanline dot) c }

/-- The pixel step's store at the position: a cell of the visible window takes the colour; every other cell is never written
(10_state.md R44, 90_conflicts.md C1; log 9). -/
def State.storePixel (s : State) (c : Rgb) : State :=
  if inVisibleWindow s.time.scanline s.time.dot then s.setColour s.time.scanline s.time.dot c else s

/-! ### The mapper (45_mapper.md) -/

/-- `MapperReadPpu(a)` (R336). -/
def State.mapperReadPpu (s : State) (a : Addr) : Except FaultInfo Byte :=
  match translatePpu a with
  | .chr k => .ok (s.chrAt k)
  | .prg _ | .invalid => .error (.invariantViolation (.address a))

/-- `MapperWritePpu(a, b)`: refused, whatever the byte; nothing is written (R337). -/
def State.mapperWritePpu (_s : State) (a : Addr) (_b : Byte) : Except FaultInfo State :=
  .error (.illegalCartridgeWrite a)

/-- `MapperReadCpu(a)` (R340). -/
def State.mapperReadCpu (s : State) (a : Addr) : Except FaultInfo Byte :=
  match translateCpu s.cfg.prgSize a with
  | .prg k => .ok (s.prgAt k)
  | .chr _ | .invalid => .error (.invariantViolation (.address a))

/-- `MapperWriteCpu(a, b)`: the fault it raises, in the program window and below it (R341). -/
def mapperWriteCpuFault (a : Addr) : FaultInfo :=
  if 0x8000 ≤ a.toNat then .illegalCartridgeWrite a else .invariantViolation (.address a)

/-! ### The PPU bus (20_memory.md) -/

/-- `BusRead(a)` (R76). -/
def State.busRead (s : State) (a : Addr) : Except FaultInfo Byte :=
  match resolve s.cfg.mirroring a with
  | .cell k => .ok (s.vramAt k)
  | .mapper a => s.mapperReadPpu a

/-- `BusWrite(a, b)` (R77). -/
def State.busWrite (s : State) (a : Addr) (b : Byte) : Except FaultInfo State :=
  match resolve s.cfg.mirroring a with
  | .cell k => .ok (s.setVram k b)
  | .mapper a => s.mapperWritePpu a b

/-- An operation that goes on with the byte read at a bus address, or raises what the read raises. -/
def State.withBusByte (s : State) (a : Addr) (k : Byte → State) : State :=
  match s.busRead a with
  | .ok b => k b
  | .error f => s.raise f

/-! ### The interrupt line (60_exceptions.md R365) -/

/-- `irq.assert()`. -/
def State.irqAssert (s : State) : State := { s with irqLine := true }

/-- `irq.clear()`. -/
def State.irqClear (s : State) : State := { s with irqLine := false }

/-! ### Port operations -/

/-- Every port write first does `io_bus <- val` (44_register_ports.md R283). -/
def State.driveBus (s : State) (val : Byte) : State := { s with regs.ioBus := val }

/-- The byte a read returns goes to the caller (the model's record of it, log 2). -/
def State.answerByte (s : State) (r : Byte) : State := { s with answer := some (.byte r) }

/-- A read that returns register data also does `io_bus <- r` (44_register_ports.md R286, R288, R296). -/
def State.returnByte (s : State) (r : Byte) : State := (s.driveBus r).answerByte r

/-! ### Construction (10_state.md R57) -/

/-- The checks of the sizes and of the tables, once the two tags are accepted (45_mapper.md R331, 30_encoding.md R114). -/
def sizesCheck (c : Cartridge) (p : Parameters) (m : Mirroring) : Except ConfigCheck Mirroring :=
  if c.prg.length ≠ 0x4000 ∧ c.prg.length ≠ 0x8000 then .error .prgSize
  else if c.chr.length ≠ 0x2000 then .error .chrSize
  else if tablesValid p.tables then .ok m
  else .error .eventTable

/-- The first check the configuration fails, in the order mapper kind, mirroring tag, PRG_SIZE, CHR_SIZE, event tables
(45_mapper.md R331, 30_encoding.md R114; the order is log 10). -/
def configCheck (c : Cartridge) (p : Parameters) : Except ConfigCheck Mirroring :=
  if c.mapperKind ≠ 0 then .error .mapperKind
  else
    match c.mirroring with
    | .other _ => .error .mirroringTag
    | .vertical => sizesCheck c p .vertical
    | .horizontal => sizesCheck c p .horizontal

/-- Construction of a session: the configuration is validated, and either no state exists and the outcome is `ConfigError`,
or the state of R57 does. -/
def construct (c : Cartridge) (p : Parameters) : Result :=
  match configCheck c p with
  | .error e => .fault (.configError e)
  | .ok m =>
    .next (State.constructed
      { mirroring := m, prgSize := c.prg.length, prg := Memory.ofArray 0 c.prg, chr := Memory.ofArray 0 c.chr,
        tables := p.tables, skipRequiresRendering := p.skipRequiresRendering, nmiOnEnable := p.nmiOnEnable,
        launch := p.launch })

/-- The number of a fault's class (60_exceptions.md R350). -/
def FaultInfo.code : FaultInfo → Nat
  | .configError _ => 1
  | .invariantViolation _ => 2
  | .illegalCartridgeWrite _ => 3

end Sys2Proof.Machine
end

