-- ==== Sys2Proof/Machine/Flags.lean ====
section
/-! DEFINITION. Every flag the block computes: the derived signal `rendering` (10_state.md R25), the status byte (30_encoding.md R122), the VBlank flag and the interrupt condition (60_exceptions.md R362, 44_register_ports.md R284), the read race (R286), sprite selection and overflow (42_sprites.md R226), the sprite-0 hit (43_pixel.md R265), and the gate of the events (40_scheduler.md R156). -/

namespace Sys2Proof.Machine

/-- `rendering = mask[3] | mask[4]` (10_state.md R25). -/
def State.rendering (s : State) : Bool := s.regs.mask.getLsbD 3 || s.regs.mask.getLsbD 4

/-- A gated event does nothing at all when `rendering = 0` (40_scheduler.md R156). -/
def whenRendering (op : State → State) (s : State) : State := if s.rendering then op s else s

/-- An event that is not gated. -/
def event (op : State → State) (s : State) : Result := whileLive op s

/-- A gated event. -/
def gatedEvent (op : State → State) (s : State) : Result := whileLive (whenRendering op) s

/-- The byte a read of port 2 returns: `{ status[7:5], io_bus[4:0] }` (30_encoding.md R122, 44_register_ports.md R286). -/
def State.statusByte (s : State) : Byte :=
  (BitVec.ofBool s.status.vblank ++ BitVec.ofBool s.status.spr0Hit ++ BitVec.ofBool s.status.overflow)
    ++ s.regs.ioBus.extractLsb' 0 5

/-- The position is `(scanline, dot)`. -/
def State.atPosition (s : State) (scanline : Fin 262) (dot : Fin 341) : Bool :=
  s.time.scanline == scanline && s.time.dot == dot

/-- A status read here comes just before the VBlank-set event (44_register_ports.md R286). -/
def State.readsBeforeVblank (s : State) : Bool := s.atPosition 241 1

/-- A status read here comes one or two dots after the VBlank-set event (44_register_ports.md R286). -/
def State.readsAfterVblank (s : State) : Bool := s.atPosition 241 2 || s.atPosition 241 3

/-- `VBLANK_SET` asserts the interrupt line: neither suppression flag, and `ctrl[7] = 1` (60_exceptions.md R362). -/
def State.nmiFires (s : State) : Bool := !s.sup.vbl && !s.sup.nmi && s.regs.ctrl.getLsbD 7

/-- A control write asserts the line: only under NMI_ON_ENABLE, when it turns `ctrl[7]` on while V is set
(44_register_ports.md R284). -/
def State.nmiOnWrite (s : State) (val : Byte) : Bool :=
  s.cfg.nmiOnEnable && !s.regs.ctrl.getLsbD 7 && val.getLsbD 7 && s.status.vblank

/-- A sprite whose Y byte is `y` covers the upcoming scanline: `0 <= scanline - y < h` (42_sprites.md R226). -/
def State.spriteCovers (s : State) (y : Byte) : Bool :=
  let diff : Int := (s.time.scanline.val : Int) - y.toNat
  decide (0 ≤ diff) && decide (diff < spriteHeight s.regs.ctrl)

/-- The sprite-0 hit: both pixels opaque and the sprite's from slot 0 holding sprite 0 (43_pixel.md R265). -/
def spriteZeroHit (b : BgPixel) (p : SprPixel) : Bool := b.pix != 0 && p.pix != 0 && p.isZero

end Sys2Proof.Machine
end

