-- ==== Sys2Proof/Machine/Background.lean ====
section
/-! DEFINITION. The meanings of the ten background events (41_background.md). All are gated. -/

namespace Sys2Proof.Machine

/-- `nt_latch <- BusRead(0x2000 | v[11:0])` (R193). -/
def fetchNt (s : State) : State :=
  s.withBusByte (ntAddr s.scroll.v) fun b => { s with bg.ntLatch := b }

/-- `FETCH_NT` (R193). -/
def execFetchNt (s : State) : Result := gatedEvent fetchNt s

/-- The attribute fetch, which keeps the two selected bits (R194). -/
def fetchAt (s : State) : State :=
  s.withBusByte (atAddr s.scroll.v) fun b => { s with bg.atLatch := atSelect s.scroll.v b }

/-- `FETCH_AT` (R194). -/
def execFetchAt (s : State) : Result := gatedEvent fetchAt s

/-- The fetch of bit plane 0 (R195). -/
def fetchPtLo (s : State) : State :=
  s.withBusByte (patternAddr s.regs.ctrl s.bg.ntLatch s.scroll.v) fun b => { s with bg.ptLoLatch := b }

/-- `FETCH_PT_LO` (R195). -/
def execFetchPtLo (s : State) : Result := gatedEvent fetchPtLo s

/-- The fetch of bit plane 1, eight bytes on (R196). -/
def fetchPtHi (s : State) : State :=
  s.withBusByte (patternAddr s.regs.ctrl s.bg.ntLatch s.scroll.v + 8) fun b => { s with bg.ptHiLatch := b }

/-- `FETCH_PT_HI` (R196). -/
def execFetchPtHi (s : State) : Result := gatedEvent fetchPtHi s

/-- All four shift registers move left by one bit (R197). -/
def shiftAll (s : State) : State :=
  { s with bg := { s.bg with
      bgShiftLo := s.bg.bgShiftLo <<< 1, bgShiftHi := s.bg.bgShiftHi <<< 1,
      atShiftLo := s.bg.atShiftLo <<< 1, atShiftHi := s.bg.atShiftHi <<< 1 } }

/-- `SHIFT` (R197). -/
def execShift (s : State) : Result := gatedEvent shiftAll s

/-- The low bytes of the four shift registers are loaded from the latches (R198). -/
def reloadAll (s : State) : State :=
  { s with bg := { s.bg with
      bgShiftLo := putField s.bg.bgShiftLo 0 s.bg.ptLoLatch
      bgShiftHi := putField s.bg.bgShiftHi 0 s.bg.ptHiLatch
      atShiftLo := putField s.bg.atShiftLo 0 (spread (s.bg.atLatch.getLsbD 0))
      atShiftHi := putField s.bg.atShiftHi 0 (spread (s.bg.atLatch.getLsbD 1)) } }

/-- `RELOAD` (R198). -/
def execReload (s : State) : Result := gatedEvent reloadAll s

/-- `INC_X` (R199). -/
def execIncX (s : State) : Result := gatedEvent (fun s => { s with scroll.v := incCoarseX s.scroll.v }) s

/-- `INC_Y` (R200). -/
def execIncY (s : State) : Result := gatedEvent (fun s => { s with scroll.v := incVertical s.scroll.v }) s

/-- `COPY_X` (R201). -/
def execCopyX (s : State) : Result := gatedEvent (fun s => { s with scroll.v := copyHorizontal s.scroll.v s.scroll.t }) s

/-- `COPY_Y` (R202). -/
def execCopyY (s : State) : Result := gatedEvent (fun s => { s with scroll.v := copyVertical s.scroll.v s.scroll.t }) s

end Sys2Proof.Machine
end

