-- ==== Sys2Proof/Machine/Interrupt.lean ====
section
/-! DEFINITION. The meanings of the events that are no part of a pipeline: `NONE` (40_scheduler.md R155), and the two of the interrupt controller (60_exceptions.md R362, R363). None is gated. -/

namespace Sys2Proof.Machine

/-- `NONE`: an unused list entry, no effect (40_scheduler.md R155). -/
def execNoneEvt (s : State) : Result := event (fun s => s) s

/-- `CLEAR_STATUS`: the three flags are cleared; the line and the suppression flags are not touched (R363). -/
def execClearStatus (s : State) : Result := event (fun s => { s with status := Status.zero }) s

/-- The VBlank-set event: V unless `sup_vbl`; the line if neither flag and `ctrl[7] = 1`; both flags are consumed (R362). -/
def vblankSet (s : State) : State :=
  { s with
    status.vblank := s.status.vblank || !s.sup.vbl
    irqLine := s.irqLine || s.nmiFires
    sup := Suppress.zero }

/-- `VBLANK_SET` (R362). -/
def execVblankSet (s : State) : Result := event vblankSet s

end Sys2Proof.Machine
end

