-- ==== Sys2Proof/Machine/Pixel.lean ====
section
/-! DEFINITION. The `PIXEL` event: background pixel, sprite pixel, sprite-0 hit, palette, colour buffer (43_pixel.md). Not gated. -/

namespace Sys2Proof.Machine

/-- The pixel column of the position, `x = dot - 1`, as an integer (R261; a dot outside 1..256 is log 9). -/
def State.column (s : State) : Int := (s.time.dot.val : Int) - 1

/-- A layer with this show bit and this left-column bit of `mask` is shown at column `x` (R262, R263). -/
def State.layerShown (s : State) (showBit leftBit : Nat) (x : Int) : Bool :=
  s.regs.mask.getLsbD showBit && (decide (8 ≤ x) || s.regs.mask.getLsbD leftBit)

/-- `BgPixel(x)` (R262). -/
def State.bgPixel (s : State) (x : Int) : BgPixel :=
  if s.layerShown 3 1 x then
    let bit := 15 - s.scroll.fineX.toNat
    { pix := pair (s.bg.bgShiftHi.getLsbD bit) (s.bg.bgShiftLo.getLsbD bit)
      pal := pair (s.bg.atShiftHi.getLsbD bit) (s.bg.atShiftLo.getLsbD bit) }
  else { pix := 0, pal := 0 }

/-- The opaque pixel of slot `i` at column `x`, if it has one (the body of the loop of R263). -/
def State.slotPixel (s : State) (x : Int) (i : Fin 8) : Option SprPixel :=
  let off := x - s.spr.x[i].toNat
  if 0 ≤ off ∧ off ≤ 7 then
    let bit := 7 - off.toNat
    let p := pair (s.spr.patHi[i].getLsbD bit) (s.spr.patLo[i].getLsbD bit)
    if p = 0 then none
    else some { pix := p, pal := s.spr.attr[i].extractLsb' 0 2, behind := s.spr.attr[i].getLsbD 5,
                isZero := i == 0 && s.spr.spr0Cur }
  else none

/-- The eight slots, ascending. -/
def allSlots : List (Fin 8) := [0, 1, 2, 3, 4, 5, 6, 7]

/-- `SprPixel(x)`: the lowest live slot with an opaque pixel wins (R263). -/
def State.sprPixel (s : State) (x : Int) : SprPixel :=
  if s.layerShown 4 2 x then
    ((allSlots.filter fun i => decide (i.val < s.spr.sprCount.val)).findSome? (s.slotPixel x)).getD SprPixel.transparent
  else SprPixel.transparent

/-- The hit, `status[6] <- 1`, set only (R265). -/
def State.markHit (s : State) (hit : Bool) : State :=
  { s with status.spr0Hit := s.status.spr0Hit || hit }

/-- The two pixels, the hit, the palette byte, the colour cell, in that order (R260); the cell only in the visible window
(10_state.md R44, log 9). -/
def drawPixel (s : State) : State :=
  let b := s.bgPixel s.column
  let p := s.sprPixel s.column
  let s := s.markHit (spriteZeroHit b p)
  s.withBusByte (paletteAddr b p) fun byte =>
    s.storePixel (Config.systemPalette (colourIndex byte))

/-- `PIXEL` (R260). -/
def execPixel (s : State) : Result := event drawPixel s

end Sys2Proof.Machine
end

