-- ==== Sys2Proof/Machine/Ports.lean ====
section
/-! DEFINITION. The meanings of the 17 port operations (44_register_ports.md). A port operation is performed at any position, whatever `mask` holds (R280); the bits `mirror` of its word select nothing (R281). -/

namespace Sys2Proof.Machine

/-! ### Writes -/

/-- The control write (R284). -/
def writeCtrl (val : Byte) (s : State) : State :=
  { s with
    regs := { s.regs with ioBus := val, ctrl := val }
    scroll.t := tFromCtrl s.scroll.t val
    irqLine := s.irqLine || s.nmiOnWrite val }

/-- `WR_CTRL` (R284). -/
def execWrCtrl (_mirror : BitVec 10) (val : Byte) (s : State) : Result := whileLive (writeCtrl val) s

/-- `WR_MASK`: `io_bus <- val; mask <- val` (R285). -/
def execWrMask (_mirror : BitVec 10) (val : Byte) (s : State) : Result :=
  whileLive (fun s => { s with regs := { s.regs with ioBus := val, mask := val } }) s

/-- `WR_STATUS`: only `io_bus <- val`; `status` is not writable (R283). -/
def execWrStatus (_mirror : BitVec 10) (val : Byte) (s : State) : Result := whileLive (fun s => s.driveBus val) s

/-- `WR_OAMADDR`: `io_bus <- val; oam_addr <- val` (R287). -/
def execWrOamaddr (_mirror : BitVec 10) (val : Byte) (s : State) : Result :=
  whileLive (fun s => { s with regs := { s.regs with ioBus := val, oamAddr := val } }) s

/-- The OAM data write: the byte at `oam_addr`, which then steps on modulo 256 (R289). -/
def writeOamData (val : Byte) (s : State) : State :=
  { s.setOam s.regs.oamAddr.toNat val with
    regs := { s.regs with ioBus := val, oamAddr := s.regs.oamAddr + 1 } }

/-- `WR_OAMDATA` (R289). -/
def execWrOamdata (_mirror : BitVec 10) (val : Byte) (s : State) : Result := whileLive (writeOamData val) s

/-- The scroll write: the first of a pair horizontal, the second vertical (R290, R291). -/
def writeScroll (val : Byte) (s : State) : State :=
  if s.scroll.w then
    { s.driveBus val with scroll := { s.scroll with t := tFromScrollY s.scroll.t val, w := false } }
  else
    { s.driveBus val with
      scroll := { s.scroll with t := tFromScrollX s.scroll.t val, fineX := val.extractLsb' 0 3, w := true } }

/-- `WR_SCROLL` (R290, R291). -/
def execWrScroll (_mirror : BitVec 10) (val : Byte) (s : State) : Result := whileLive (writeScroll val) s

/-- The address write: the high byte into `t`, then the low byte, with the whole of `t` into `v` (R292, R293). -/
def writeAddr (val : Byte) (s : State) : State :=
  if s.scroll.w then
    let t := tFromAddrLow s.scroll.t val
    { s.driveBus val with scroll := { s.scroll with t := t, v := t, w := false } }
  else
    { s.driveBus val with scroll := { s.scroll with t := tFromAddrHigh s.scroll.t val, w := true } }

/-- `WR_ADDR` (R292, R293). -/
def execWrAddr (_mirror : BitVec 10) (val : Byte) (s : State) : Result := whileLive (writeAddr val) s

/-- The step of the data port's address after an access (R295). -/
def State.stepDataAddr (s : State) : State := { s with scroll.v := incDataAddr s.regs.ctrl s.scroll.v }

/-- The data write: `io_bus`, then the bus, then the address; a write the mapper refuses leaves `io_bus` written and the
rest not (R297). -/
def writeData (val : Byte) (s : State) : State :=
  let s := s.driveBus val
  match s.busWrite (dataAddr s.scroll.v) val with
  | .ok u => u.stepDataAddr
  | .error f => s.raise f

/-- `WR_DATA` (R297). -/
def execWrData (_mirror : BitVec 10) (val : Byte) (s : State) : Result := whileLive (writeData val) s

/-- The bytes of a list into consecutive cells of `oam`, from index `start` on, modulo 256 (R300). -/
def State.fillOam (s : State) (start : Byte) : List Byte → State
  | [] => s
  | b :: rest => (s.setOam start.toNat b).fillOam (start + 1) rest

/-- The DMA write: 256 bytes from `oam_addr` on, which ends where it started; `io_bus` gets the last (R300). -/
def writeOamDma (data : List Byte) (s : State) : State :=
  (s.fillOam s.regs.oamAddr data).driveBus (data.getLastD s.regs.ioBus)

/-- `WR_OAMDMA`: the page byte is consumed by the CPU side (10_state.md R30); without 256 data bytes it is no operation
(R300, log 12). -/
def execWrOamdma (_page : Byte) (data : List Byte) (s : State) : Result :=
  if data.length = 256 then whileLive (writeOamDma data) s else .refused (.illFormedDma data.length)

/-! ### Reads -/

/-- A read of a write-only port returns `io_bus`; no state of the block changes (R282). -/
def readOpen (s : State) : State := s.answerByte s.regs.ioBus

/-- `RD_OPEN` of port 0 (R282). -/
def execRdOpenP0 (_mirror : BitVec 10) (s : State) : Result := whileLive readOpen s

/-- `RD_OPEN` of port 1 (R282). -/
def execRdOpenP1 (_mirror : BitVec 10) (s : State) : Result := whileLive readOpen s

/-- `RD_OPEN` of port 3 (R282). -/
def execRdOpenP3 (_mirror : BitVec 10) (s : State) : Result := whileLive readOpen s

/-- `RD_OPEN` of port 5 (R282). -/
def execRdOpenP5 (_mirror : BitVec 10) (s : State) : Result := whileLive readOpen s

/-- `RD_OPEN` of port 6 (R282). -/
def execRdOpenP6 (_mirror : BitVec 10) (s : State) : Result := whileLive readOpen s

/-- The status read: V and `w` are cleared; just before the VBlank-set event both suppression flags are set, just after it
the line is cleared; the byte returned is the one from before (R286). -/
def readStatus (s : State) : State :=
  let r := s.statusByte
  let u : State :=
    { s with
      status.vblank := false
      scroll.w := false
      sup := if s.readsBeforeVblank then { vbl := true, nmi := true } else s.sup
      irqLine := s.irqLine && !s.readsAfterVblank }
  u.returnByte r

/-- `RD_STATUS` (R286). -/
def execRdStatus (_mirror : BitVec 10) (s : State) : Result := whileLive readStatus s

/-- `RD_OAMDATA`: `r <- oam[oam_addr]; io_bus <- r`, without a step of `oam_addr` (R288). -/
def execRdOamdata (_mirror : BitVec 10) (s : State) : Result :=
  whileLive (fun s => s.returnByte (s.oamAt s.regs.oamAddr.toNat)) s

/-- The data read: below the palette the buffer is returned and refilled; in the palette the byte is returned at once and
the buffer takes the nametable byte beneath (R296). -/
def readData (s : State) : State :=
  let a := dataAddr s.scroll.v
  if a.toNat < 0x3F00 then
    s.withBusByte a fun b => ({ s with regs.dataBuf := b }.returnByte s.regs.dataBuf).stepDataAddr
  else
    s.withBusByte a fun r =>
      s.withBusByte (a - 0x1000) fun b => ({ s with regs.dataBuf := b }.returnByte r).stepDataAddr

/-- `RD_DATA` (R296). -/
def execRdData (_mirror : BitVec 10) (s : State) : Result := whileLive readData s

end Sys2Proof.Machine
end

