-- ==== Sys2Proof/Machine/Sprite.lean ====
section
/-! DEFINITION. The meanings of the nine sprite events (42_sprites.md). All but `SPR_NONE` are gated. -/

namespace Sys2Proof.Machine

/-- `OAMADDR_CLEAR`: `oam_addr <- 0` (R222). -/
def execOamaddrClear (s : State) : Result := gatedEvent (fun s => { s with regs.oamAddr := 0 }) s

/-- `EVAL_RESET`: `sec_count <- 0; spr0_next <- 0` (R223). -/
def execEvalReset (s : State) : Result :=
  gatedEvent (fun s => { s with spr := { s.spr with secCount := 0, spr0Next := false } }) s

/-- The index `dot / 2 - 1` of the byte `SEC_CLEAR` clears, as an integer (R224; an odd dot rounds down, log 8). -/
def secClearIndex (dot : Nat) : Int := (dot / 2 : Nat) - 1

/-- `sec_oam[dot / 2 - 1] <- 0xFF`; an index outside 0..31 is `InvariantViolation` (R224). -/
def secClear (s : State) : State :=
  let k := secClearIndex s.time.dot.val
  if h : 0 ≤ k ∧ k < 32 then
    { s with spr.secOam := s.spr.secOam.set k.toNat 0xFF (by omega) }
  else s.raise (.invariantViolation (.index k))

/-- `SEC_CLEAR` (R224). -/
def execSecClear (s : State) : Result := gatedEvent secClear s

/-- The number `(dot - 65) >> 1` of the sprite `SPR_EVAL` examines, as an integer (R226; log 8). -/
def evalIndex (dot : Nat) : Int := ((dot : Int) - 65) >>> (1 : Nat)

/-- The four bytes of a sprite into slot `i` of secondary OAM (R226). -/
def copyEntry (sec : Vector Byte 32) (i : Fin 8) (b0 b1 b2 b3 : Byte) : Vector Byte 32 :=
  (((sec.set (4 * i.val) b0 (by omega)).set (4 * i.val + 1) b1 (by omega)).set (4 * i.val + 2) b2 (by omega)).set
    (4 * i.val + 3) b3 (by omega)

/-- The examination of primary sprite `n`: copied while fewer than 8 are, else the overflow flag (R226). -/
def evalSprite (n : Nat) (s : State) : State :=
  if s.spriteCovers (s.oamAt (4 * n)) then
    if h : s.spr.secCount.val < 8 then
      { s with spr := { s.spr with
          secOam := copyEntry s.spr.secOam ⟨s.spr.secCount.val, h⟩
            (s.oamAt (4 * n)) (s.oamAt (4 * n + 1)) (s.oamAt (4 * n + 2)) (s.oamAt (4 * n + 3))
          spr0Next := if n = 0 then true else s.spr.spr0Next
          secCount := ⟨s.spr.secCount.val + 1, by omega⟩ } }
    else { s with status.overflow := true }
  else s

/-- Sprite `(dot - 65) >> 1` is examined; a number outside 0..63 is `InvariantViolation` (R226). -/
def sprEval (s : State) : State :=
  let n := evalIndex s.time.dot.val
  if 0 ≤ n ∧ n ≤ 63 then evalSprite n.toNat s else s.raise (.invariantViolation (.index n))

/-- `SPR_EVAL` (R226). -/
def execSprEval (s : State) : Result := gatedEvent sprEval s

/-- `SPR_LATCH`: `spr_count <- sec_count; spr0_cur <- spr0_next` (R230). -/
def execSprLatch (s : State) : Result :=
  gatedEvent (fun s => { s with spr := { s.spr with sprCount := s.spr.secCount, spr0Cur := s.spr.spr0Next } }) s

/-- `SPR_NONE`: `spr_count <- 0; spr0_cur <- 0`, whatever `mask` holds (R231). -/
def execSprNone (s : State) : Result :=
  event (fun s => { s with spr := { s.spr with sprCount := 0, spr0Cur := false } }) s

/-- Byte `j` of slot `i` of secondary OAM: 0 Y, 1 tile, 2 attribute, 3 X (30_encoding.md R124). -/
def State.secByte (s : State) (i : BitVec 3) (j : Fin 4) : Byte :=
  s.spr.secOam[4 * i.toNat + j.val]'(by have := i.isLt; omega)

/-- The attribute and X bytes of a slot (R232). -/
def sprLoad (slot : BitVec 3) (s : State) : State :=
  { s with spr := { s.spr with
      attr := s.spr.attr.set slot.toNat (s.secByte slot 2) slot.isLt
      x := s.spr.x.set slot.toNat (s.secByte slot 3) slot.isLt } }

/-- `SPR_LOAD i` (R232). -/
def execSprLoad (slot : BitVec 3) (s : State) : Result := gatedEvent (sprLoad slot) s

/-- The attribute byte of a slot, `spr_attr[i]` (30_encoding.md R125). -/
def State.slotAttr (s : State) (slot : BitVec 3) : Byte := s.spr.attr[slot.toNat]'slot.isLt

/-- `SprAddr(i)` (R234). -/
def State.slotAddr (s : State) (slot : BitVec 3) : Addr :=
  sprAddr s.regs.ctrl s.time.scanline.val (s.secByte slot 0) (s.secByte slot 1) (s.slotAttr slot)

/-- A byte of a sprite's row, flipped horizontally if its attribute asks for it (R235). -/
def flipRow (attr b : Byte) : Byte := if attr.getLsbD 6 then rev8 b else b

/-- The fetch of bit plane 0 of a slot: a live slot reads the bus, an empty slot is transparent (R235). -/
def sprFetchLo (slot : BitVec 3) (s : State) : State :=
  if slot.toNat < s.spr.sprCount.val then
    s.withBusByte (s.slotAddr slot) fun b =>
      { s with spr.patLo := s.spr.patLo.set slot.toNat (flipRow (s.slotAttr slot) b) slot.isLt }
  else { s with spr.patLo := s.spr.patLo.set slot.toNat 0 slot.isLt }

/-- `SPR_FETCH_LO i` (R235). -/
def execSprFetchLo (slot : BitVec 3) (s : State) : Result := gatedEvent (sprFetchLo slot) s

/-- The fetch of bit plane 1 of a slot, at `SprAddr(i) + 8` (R236). -/
def sprFetchHi (slot : BitVec 3) (s : State) : State :=
  if slot.toNat < s.spr.sprCount.val then
    s.withBusByte (s.slotAddr slot + 8) fun b =>
      { s with spr.patHi := s.spr.patHi.set slot.toNat (flipRow (s.slotAttr slot) b) slot.isLt }
  else { s with spr.patHi := s.spr.patHi.set slot.toNat 0 slot.isLt }

/-- `SPR_FETCH_HI i` (R236). -/
def execSprFetchHi (slot : BitVec 3) (s : State) : Result := gatedEvent (sprFetchHi slot) s

end Sys2Proof.Machine
end

