-- ==== Sys2Proof/Machine/Dispatch.lean ====
section
/-! DEFINITION. The meaning of every operation, one arm per constructor of Instr, in the order of spec/opcode_table.json. -/

namespace Sys2Proof.Machine

def exec (i : Instr) (s : State) : Host.Outcome State Fault Refusal :=
  match i with
  | .noneEvt => Sys2Proof.Machine.execNoneEvt s
  | .fetchNt => Sys2Proof.Machine.execFetchNt s
  | .fetchAt => Sys2Proof.Machine.execFetchAt s
  | .fetchPtLo => Sys2Proof.Machine.execFetchPtLo s
  | .fetchPtHi => Sys2Proof.Machine.execFetchPtHi s
  | .shift => Sys2Proof.Machine.execShift s
  | .reload => Sys2Proof.Machine.execReload s
  | .incX => Sys2Proof.Machine.execIncX s
  | .incY => Sys2Proof.Machine.execIncY s
  | .copyX => Sys2Proof.Machine.execCopyX s
  | .copyY => Sys2Proof.Machine.execCopyY s
  | .oamaddrClear => Sys2Proof.Machine.execOamaddrClear s
  | .clearStatus => Sys2Proof.Machine.execClearStatus s
  | .vblankSet => Sys2Proof.Machine.execVblankSet s
  | .evalReset => Sys2Proof.Machine.execEvalReset s
  | .secClear => Sys2Proof.Machine.execSecClear s
  | .sprEval => Sys2Proof.Machine.execSprEval s
  | .sprLatch => Sys2Proof.Machine.execSprLatch s
  | .sprNone => Sys2Proof.Machine.execSprNone s
  | .sprLoad slot => Sys2Proof.Machine.execSprLoad slot s
  | .sprFetchLo slot => Sys2Proof.Machine.execSprFetchLo slot s
  | .sprFetchHi slot => Sys2Proof.Machine.execSprFetchHi slot s
  | .pixel => Sys2Proof.Machine.execPixel s
  | .wrCtrl mirror val => Sys2Proof.Machine.execWrCtrl mirror val s
  | .wrMask mirror val => Sys2Proof.Machine.execWrMask mirror val s
  | .wrStatus mirror val => Sys2Proof.Machine.execWrStatus mirror val s
  | .wrOamaddr mirror val => Sys2Proof.Machine.execWrOamaddr mirror val s
  | .wrOamdata mirror val => Sys2Proof.Machine.execWrOamdata mirror val s
  | .wrScroll mirror val => Sys2Proof.Machine.execWrScroll mirror val s
  | .wrAddr mirror val => Sys2Proof.Machine.execWrAddr mirror val s
  | .wrData mirror val => Sys2Proof.Machine.execWrData mirror val s
  | .rdStatus mirror => Sys2Proof.Machine.execRdStatus mirror s
  | .rdOamdata mirror => Sys2Proof.Machine.execRdOamdata mirror s
  | .rdData mirror => Sys2Proof.Machine.execRdData mirror s
  | .rdOpenP0 mirror => Sys2Proof.Machine.execRdOpenP0 mirror s
  | .rdOpenP1 mirror => Sys2Proof.Machine.execRdOpenP1 mirror s
  | .rdOpenP3 mirror => Sys2Proof.Machine.execRdOpenP3 mirror s
  | .rdOpenP5 mirror => Sys2Proof.Machine.execRdOpenP5 mirror s
  | .rdOpenP6 mirror => Sys2Proof.Machine.execRdOpenP6 mirror s
  | .wrOamdma page data => Sys2Proof.Machine.execWrOamdma page data s

end Sys2Proof.Machine
end

