-- ==== Sys2Proof/Machine/Scheduler.lean ====
section
/-! DEFINITION. The scheduler's tables and counters: the kind of a scanline, the event list of a position, and the advance of the position (40_scheduler.md R151, R152, R170). -/

namespace Sys2Proof.Machine

/-- The four scanline kinds (40_scheduler.md R151). -/
inductive ScanlineKind where
  | visible
  | idle
  | vblank
  | prerender
  deriving DecidableEq, Repr

/-- `Kind(s)` (R151). -/
def scanlineKind (scanline : Fin 262) : ScanlineKind :=
  if scanline.val ≤ 239 then .visible
  else if scanline.val = 241 then .vblank
  else if scanline.val = 261 then .prerender
  else .idle

/-- `EventList(s, d)`: the list of the position's table, the empty list on an idle scanline; none where the table has no
list for the dot (R152). -/
def eventList (t : EventTables) (scanline : Fin 262) (dot : Fin 341) : Option (List EvtWord) :=
  match scanlineKind scanline with
  | .visible => t.visible[dot.val]?
  | .prerender => t.prerender[dot.val]?
  | .vblank => t.vblank[dot.val]?
  | .idle => some []

/-- The list the Engine finds at the position; the fault of a list longer than MAX_EVENTS (30_encoding.md R114, log 19), and
of a position without one (R152). -/
def State.positionList (s : State) : Except FaultInfo (List EvtWord) :=
  match eventList s.cfg.tables s.time.scanline s.time.dot with
  | none => .error (.invariantViolation (.noEventList s.time.scanline.val s.time.dot.val))
  | some words =>
    if words.length ≤ maxEvents then .ok words
    else .error (.invariantViolation (.overlongList s.time.scanline.val s.time.dot.val))

/-- `NextPosition`: scanline, dot and odd_frame after the position (R170). -/
def nextPosition (skipRequiresRendering rendering : Bool) (scanline : Fin 262) (dot : Fin 341) (odd : Bool) :
    Fin 262 × Fin 341 × Bool :=
  if scanline = 261 ∧ dot = 339 ∧ odd = true ∧ (skipRequiresRendering = false ∨ rendering = true) then (0, 0, false)
  else if dot = 340 then
    if scanline = 261 then (0, 0, !odd) else (scanline + 1, 0, odd)
  else (scanline, dot + 1, odd)

/-- The end of a dot: `cycles <- cycles + 1`, then the position advances (R150). -/
def State.tick (s : State) : State :=
  let next := nextPosition s.cfg.skipRequiresRendering s.rendering s.time.scanline s.time.dot s.time.oddFrame
  { s with time :=
      { cycles := s.time.cycles + 1, scanline := next.1, dot := next.2.1, oddFrame := next.2.2 } }

end Sys2Proof.Machine
end

