-- ==== Sys2Proof/Machine/Engine.lean ====
section
/-! DEFINITION. The step of the Engine, `AdvanceOneDot` (40_scheduler.md R150, R155), and the host moves (00_scope.md R9, 30_encoding.md R118): ports, `Reset`, the queries, the interrupt line, the presenter and the mapper's CPU side. -/

namespace Sys2Proof.Machine

/-! ### AdvanceOneDot -/

/-- `Execute(e)`: a legal event word runs its event; an illegal one is `InvariantViolation` (40_scheduler.md R155). -/
def executeWord (w : EvtWord) (s : State) : Result :=
  match decodeEvt w with
  | .ok i => exec i s
  | .error _ => whileLive (fun s => s.raise (.invariantViolation (.eventWord w))) s

/-- The events of a list, in order; once one has raised a fault no further event runs (40_scheduler.md R150). -/
def runEvents : List EvtWord → State → Result
  | [], s => .next s
  | w :: rest, s =>
    match executeWord w s with
    | .next u => if u.fault.isSome then .next u else runEvents rest u
    | .fault f => .fault f
    | .refused r => .refused r

/-- The counters advance, unless an event raised a fault (40_scheduler.md R150). -/
def finishDot : Result → Result
  | .next u => if u.fault.isSome then .next u else .next u.tick
  | .fault f => .fault f
  | .refused r => .refused r

/-- `AdvanceOneDot` (40_scheduler.md R150). Where the position has no list that can run, that is its fault and no event runs
(R152, 30_encoding.md R114). -/
def advanceOneDot (s : State) : Result :=
  match s.fault with
  | some f => .fault (.halted f)
  | none =>
    match s.positionList with
    | .ok words => finishDot (runEvents words s)
    | .error f => .next (s.raise f)

/-! ### Host moves -/

/-- `Reset`: every register, latch and counter of the Engine to zero; the memories, the colour buffer, the line, the fault
and the configuration unchanged (70_reset_and_hazards.md R391, 10_state.md R58, R59). -/
def resetEngine (s : State) : State :=
  { s with
    regs := Regs.zero, status := Status.zero, scroll := Scroll.zero, bg := Background.zero, spr := Sprites.zero,
    sup := Suppress.zero, time := Timing.zero }

/-- A value returned to the caller that changes no state of the block (log 2). -/
def State.answerWith (s : State) (a : Answer) : State := { s with answer := some a }

/-- A port operation: the word and its operands are decoded and the operation runs; a word that selects none is refused
(30_encoding.md R117, log 18). -/
def performPort (w : PortWord) (operands : List Byte) (s : State) : Result :=
  match decodePort w operands with
  | .ok i => exec i s
  | .error (.operandBytes w n) => .refused (.operandBytes w n)
  | .error (.notAnOperation w) => .refused (.notAnOperation w)
  | .error (.reservedOpcode _) => .refused (.notAnOperation w)
  | .error (.slotOnSlotlessEvent _) => .refused (.notAnOperation w)

/-- `MapperReadCpu` as the CPU bus calls it: the byte is returned, or the fault recorded (45_mapper.md R340, R342). -/
def readCpuSide (a : Addr) (s : State) : State :=
  match s.mapperReadCpu a with
  | .ok b => s.answerByte b
  | .error f => s.raise f

/-- One host move. No operation of any agent has a step once a fault is recorded (60_exceptions.md R352). -/
def perform (m : HostMove) (s : State) : Result :=
  match s.fault with
  | some f => .fault (.halted f)
  | none =>
    match m with
    | .advance => advanceOneDot s
    | .port w operands => performPort w operands s
    | .reset => .next (resetEngine s)
    | .renderingEnabled => .next (s.answerWith (.flag s.rendering))
    | .irqClear => .next s.irqClear
    | .irqIsAsserted => .next (s.answerWith (.flag s.irqLine))
    | .readColour scanline dot => .next (s.answerWith (.colour (s.colourAt scanline dot)))
    | .mapperReadCpu a => .next (readCpuSide a s)
    | .mapperWriteCpu a _ => .next (s.raise (mapperWriteCpuFault a))

/-! ### Where the step finds its next instruction -/

/-- The tables with this word alone in the list of the position; an idle scanline has no list, and is left as it is. -/
def placeWord (t : EventTables) (scanline : Fin 262) (dot : Fin 341) (w : EvtWord) : EventTables :=
  match scanlineKind scanline with
  | .visible => { t with visible := t.visible.set dot.val [w] }
  | .prerender => { t with prerender := t.prerender.set dot.val [w] }
  | .vblank => { t with vblank := t.vblank.set dot.val [w] }
  | .idle => t

/-- A scanline whose positions have event lists: the VBlank scanline in the place of an idle one (log 17). -/
def scanlineWithEvents (scanline : Fin 262) : Fin 262 :=
  match scanlineKind scanline with
  | .visible | .prerender | .vblank => scanline
  | .idle => 241

/-- The next step is an `AdvanceOneDot` whose event list is this word alone (log 17). -/
def placeEvent (w : EvtWord) (s : State) : State :=
  let scanline := scanlineWithEvents s.time.scanline
  { s with
    cfg.tables := placeWord s.cfg.tables scanline s.time.dot w
    time.scanline := scanline
    moves := .advance :: s.moves }

/-- The next step is this port operation (log 17). -/
def placePort (w : PortWord) (operands : List Byte) (s : State) : State :=
  { s with moves := .port w operands :: s.moves }

end Sys2Proof.Machine
end

