-- ==== Sys2Proof/Machine/Step.lean ====
section
/-! DEFINITION. One step of the machine: the first host move of the queue, or `AdvanceOneDot` where the queue is empty (00_scope.md R8, R9; log 1); and the placing of an instruction where the step takes its next one (log 17). -/

namespace Sys2Proof.Machine

/-- One step. A move that is performed leaves the queue. -/
def step (s : State) : Host.Outcome State Fault Refusal :=
  match s.moves with
  | [] => advanceOneDot s
  | m :: rest => perform m { s with moves := rest }

/-- The state whose next step runs exactly the instruction whose bits are `w`, as spec/opcode_table.json numbers them:
an event word stands alone in the event list of the position, a port word stands first in the queue of host moves. -/
def State.withFetchWord (s : State) (nbits w : Nat) : State :=
  match tableCode nbits w with
  | some (.evt word) => placeEvent word s
  | some (.port word operands) => placePort word operands s
  | none => s

end Sys2Proof.Machine
end

