-- ==== Sys2Proof/Safety.lean ====
section
/-! DEFINITION. The terms claims are stated in: what the bus shows at an address, the positions and tables of a running session, the invariant of every session, the parts of the state an agent may write, and runs of instructions. -/

namespace Sys2Proof.Machine

/-- A state that can take a step: no fault is recorded (60_exceptions.md R352). -/
abbrev State.live (s : State) : Prop := s.fault = none

/-- The byte the PPU bus shows at an address, by the address map of 20_memory.md R80: a palette slot, a nametable cell, or
character memory. -/
def State.byteOnBus (s : State) (a : Addr) : Byte :=
  if 0x3F00 ≤ a.toNat then s.vramAt (0x800 + palSlot a)
  else if 0x2000 ≤ a.toNat then s.vramAt (ntIndex s.cfg.mirroring a)
  else s.chrAt a.toNat

/-- What `rendering` gates: the operation's effect, or none (40_scheduler.md R156). -/
def gatedNext (s t : State) : Result := .next (if s.rendering then t else s)

/-- The session runs the decided EVENT_TABLE (40_scheduler.md R160 to R162). -/
def State.runsDecidedTables (s : State) : Prop := s.cfg.tables = decidedTables

/-- The state of the PPU ports that no event may write (60_exceptions.md R370), with the configuration. -/
structure SamePortState (s t : State) : Prop where
  cfg : t.cfg = s.cfg
  ctrl : t.regs.ctrl = s.regs.ctrl
  mask : t.regs.mask = s.regs.mask
  ioBus : t.regs.ioBus = s.regs.ioBus
  dataBuf : t.regs.dataBuf = s.regs.dataBuf
  scrollT : t.scroll.t = s.scroll.t
  fineX : t.scroll.fineX = s.scroll.fineX
  w : t.scroll.w = s.scroll.w
  oam : t.oam = s.oam
  vram : t.vram = s.vram

/-- The state of the pipelines that no port operation may write (60_exceptions.md R370), with the configuration. -/
structure SamePipelines (s t : State) : Prop where
  cfg : t.cfg = s.cfg
  bg : t.bg = s.bg
  spr : t.spr = s.spr
  time : t.time = s.time
  spr0Hit : t.status.spr0Hit = s.status.spr0Hit
  overflow : t.status.overflow = s.status.overflow
  colorBuf : t.colorBuf = s.colorBuf

/-- The invariant of every session: each memory in its canonical form, no cell of `color_buf` outside the visible window
ever written (10_state.md R44), a validated configuration, the attribute latch
within 0..3 (10_state.md R32), sprite 0 in slot 0 only where a slot is filled (R38, R39), and no recorded `ConfigError`,
which leaves no state (60_exceptions.md R352). -/
structure Inv (s : State) : Prop where
  oam : Memory.wf 256 s.oam = true
  vram : Memory.wf 2080 s.vram = true
  colorBuf : Memory.wf (262 * 341) s.colorBuf = true
  window : ∀ sc d, inVisibleWindow sc d = false → Memory.read? s.colorBuf (colourCell sc d) = none
  chr : Memory.wf 0x2000 s.cfg.chr = true
  prg : Memory.wf s.cfg.prgSize s.cfg.prg = true
  prgSize : s.cfg.prgSize = 0x4000 ∨ s.cfg.prgSize = 0x8000
  tables : tablesValid s.cfg.tables = true
  atLatch : s.bg.atLatch.toNat ≤ 3
  slotZeroNext : s.spr.spr0Next = true → s.spr.secCount ≠ 0
  slotZeroCur : s.spr.spr0Cur = true → s.spr.sprCount ≠ 0
  noConfigError : ∀ c, s.fault ≠ some (.configError c)

/-- A suppression flag is set only while the VBlank-set event is the next thing to happen (60_exceptions.md R364). -/
def SuppressionOnlyAtRace (s : State) : Prop :=
  s.sup.vbl = true ∨ s.sup.nmi = true → s.time.scanline = 241 ∧ s.time.dot = 1

/-- The instructions of a list one after the other, stopping once a fault is recorded. -/
def runInstrs : List Instr → State → Result
  | [], s => .next s
  | i :: rest, s =>
    match exec i s with
    | .next u => if u.fault.isSome then .next u else runInstrs rest u
    | .fault f => .fault f
    | .refused r => .refused r

/-- A list of event words decoded, if every word is an event. -/
def decodeEvents : List EvtWord → Option (List Instr)
  | [] => some []
  | w :: rest =>
    match decodeEvt w, decodeEvents rest with
    | .ok i, some is => some (i :: is)
    | _, _ => none

/-- The sprites of primary OAM, in index order, that cover the upcoming scanline (42_sprites.md R226). -/
def State.coveringSprites (s : State) : List Nat :=
  (List.range 64).filter fun n => s.spriteCovers (s.oamAt (4 * n))

/-- The 64 examinations of a scanline's evaluation, sprite 0 first (42_sprites.md R226). -/
def evaluateAll (s : State) : State := (List.range 64).foldl (fun u n => evalSprite n u) s

/-- A number of steps, stopping where one has no next state. -/
def runSteps : Nat → State → Result
  | 0, s => .next s
  | n + 1, s =>
    match step s with
    | .next u => runSteps n u
    | .fault f => .fault f
    | .refused r => .refused r

/-- The position as one number, counting the dots of a frame from (0, 0): `scanline * 341 + dot`. -/
def State.frameDot (s : State) : Nat := s.time.scanline.val * 341 + s.time.dot.val

end Sys2Proof.Machine
end

