-- ==== Sys2Proof/Certificates/Slice0/Obligations.lean ====
section
/-! DEFINITION. The statements for the provers, one definition each. Rule numbers are those of spec/; where a rule is itself a decision of the spec (92_eei_decisions.md) its number is named. -/

open Sys2Proof Sys2Proof.Machine

/-! ### Encodings -/

/-- Every well-formed operation is what the decoder reads from its code (30_encoding.md R111, R112, R116, R117). The operand
bytes beside a port word are the model's layout (log 11). -/
def Obligations.DecodeEncodeAgree : Prop :=
  ∀ i : Instr, i.wellFormed = true → decode (encode i) = .ok i

/-- Every code that decodes is the code of the operation it decodes to, no bit dropped: the ten mirror bits and the operand
bytes among them (30_encoding.md R111, R116; operand bytes log 11). -/
def Obligations.DecodedCodeIsTheOnlyOne : Prop :=
  ∀ (c : Code) (i : Instr), decode c = .ok i → encode i = c ∧ i.wellFormed = true

/-- The illegal event words are exactly those of 30_encoding.md R114 (decision D4). -/
def Obligations.ReservedEventWordsRejected : Prop :=
  ∀ w : EvtWord,
    (decodeEvt w).isOk = false ↔
      (23 ≤ (w.extractLsb' 3 5).toNat ∨
        ((w.extractLsb' 3 5).toNat ≠ 19 ∧ (w.extractLsb' 3 5).toNat ≠ 20 ∧ (w.extractLsb' 3 5).toNat ≠ 21 ∧
          w.extractLsb' 0 3 ≠ 0))

/-- The port words that select the block are those of the window `addr[15:13] = 0b001`, reads and writes, and the write to
0x4014; every other word is no operation of it, whatever operand bytes stand beside it (30_encoding.md R116, R117,
decision D9). -/
def Obligations.PortWordsThatSelectTheBlock : Prop :=
  ∀ w : PortWord,
    (∃ ops i, decodePort w ops = .ok i) ↔ (w.extractLsb' 13 3 = 1#3 ∨ w = 0x14014#17)

/-- The rows of the port table by their match and mask, the ten bits outside the mask kept with the operation
(30_encoding.md R117); the operand bytes are the model's layout (log 11). -/
def Obligations.PortRowsDecodeByMatchAndMask : Prop :=
  ∀ (w : PortWord) (val : Byte),
    (w &&& 0x1E007 = 0x12000 → decodePort w [val] = .ok (.wrCtrl (w.extractLsb' 3 10) val)) ∧
    (w &&& 0x1E007 = 0x12001 → decodePort w [val] = .ok (.wrMask (w.extractLsb' 3 10) val)) ∧
    (w &&& 0x1E007 = 0x12002 → decodePort w [val] = .ok (.wrStatus (w.extractLsb' 3 10) val)) ∧
    (w &&& 0x1E007 = 0x12003 → decodePort w [val] = .ok (.wrOamaddr (w.extractLsb' 3 10) val)) ∧
    (w &&& 0x1E007 = 0x12004 → decodePort w [val] = .ok (.wrOamdata (w.extractLsb' 3 10) val)) ∧
    (w &&& 0x1E007 = 0x12005 → decodePort w [val] = .ok (.wrScroll (w.extractLsb' 3 10) val)) ∧
    (w &&& 0x1E007 = 0x12006 → decodePort w [val] = .ok (.wrAddr (w.extractLsb' 3 10) val)) ∧
    (w &&& 0x1E007 = 0x12007 → decodePort w [val] = .ok (.wrData (w.extractLsb' 3 10) val)) ∧
    (w &&& 0x1E007 = 0x02000 → decodePort w [] = .ok (.rdOpenP0 (w.extractLsb' 3 10))) ∧
    (w &&& 0x1E007 = 0x02001 → decodePort w [] = .ok (.rdOpenP1 (w.extractLsb' 3 10))) ∧
    (w &&& 0x1E007 = 0x02002 → decodePort w [] = .ok (.rdStatus (w.extractLsb' 3 10))) ∧
    (w &&& 0x1E007 = 0x02003 → decodePort w [] = .ok (.rdOpenP3 (w.extractLsb' 3 10))) ∧
    (w &&& 0x1E007 = 0x02004 → decodePort w [] = .ok (.rdOamdata (w.extractLsb' 3 10))) ∧
    (w &&& 0x1E007 = 0x02005 → decodePort w [] = .ok (.rdOpenP5 (w.extractLsb' 3 10))) ∧
    (w &&& 0x1E007 = 0x02006 → decodePort w [] = .ok (.rdOpenP6 (w.extractLsb' 3 10))) ∧
    (w &&& 0x1E007 = 0x02007 → decodePort w [] = .ok (.rdData (w.extractLsb' 3 10))) ∧
    ∀ data : List Byte, data.length = 256 → decodePort 0x14014#17 (val :: data) = .ok (.wrOamdma val data)

/-- Every word of the event table decodes to the event of its row, the slot events with every slot; and a few port words
written out bit by bit (30_encoding.md R112, R117). -/
def Obligations.WrittenWordsDecode : Prop :=
  decodeEvt 0x00#8 = .ok .noneEvt ∧ decodeEvt 0x08#8 = .ok .fetchNt ∧ decodeEvt 0x10#8 = .ok .fetchAt ∧
  decodeEvt 0x18#8 = .ok .fetchPtLo ∧ decodeEvt 0x20#8 = .ok .fetchPtHi ∧ decodeEvt 0x28#8 = .ok .shift ∧
  decodeEvt 0x30#8 = .ok .reload ∧ decodeEvt 0x38#8 = .ok .incX ∧ decodeEvt 0x40#8 = .ok .incY ∧
  decodeEvt 0x48#8 = .ok .copyX ∧ decodeEvt 0x50#8 = .ok .copyY ∧ decodeEvt 0x58#8 = .ok .oamaddrClear ∧
  decodeEvt 0x60#8 = .ok .clearStatus ∧ decodeEvt 0x68#8 = .ok .vblankSet ∧ decodeEvt 0x70#8 = .ok .evalReset ∧
  decodeEvt 0x78#8 = .ok .secClear ∧ decodeEvt 0x80#8 = .ok .sprEval ∧ decodeEvt 0x88#8 = .ok .sprLatch ∧
  decodeEvt 0x90#8 = .ok .sprNone ∧
  (∀ slot : BitVec 3, decodeEvt (0x98 + slot.setWidth 8) = .ok (.sprLoad slot) ∧
    decodeEvt (0xA0 + slot.setWidth 8) = .ok (.sprFetchLo slot) ∧ decodeEvt (0xA8 + slot.setWidth 8) = .ok (.sprFetchHi slot)) ∧
  decodeEvt 0xB0#8 = .ok .pixel ∧
  decodePort 0b10010000000000000#17 [0x80] = .ok (.wrCtrl 0 0x80) ∧
  decodePort 0b10011111111111111#17 [0x2C] = .ok (.wrData 0x3FF 0x2C) ∧
  decodePort 0b00011010001011010#17 [] = .ok (.rdStatus 0b1010001011#10)

/-! ### A step runs the decoded operation -/

/-- A port move at the head of the queue whose word and operands decode to an operation: the step is that operation, with
the move taken out of the queue. The queue is the model's (log 1). -/
def Obligations.StepRunsDecodedPort : Prop :=
  ∀ (s : State) (w : PortWord) (ops : List Byte) (i : Instr) (rest : List HostMove),
    s.live → s.moves = .port w ops :: rest → decode (.port w ops) = .ok i →
      step s = exec i { s with moves := rest }

/-- With no move waiting, or an `AdvanceOneDot` at the head of the queue, the step executes the events of the position's
list, of at most MAX_EVENTS, in order, and then `cycles` and the position advance unless an event has recorded a fault
(40_scheduler.md R150, R155; the queue is the model's, log 1). A longer list is in IllegalEventWordStopsTheDot. -/
def Obligations.StepRunsDecodedEvents : Prop :=
  ∀ (s : State) (words : List EvtWord) (is : List Instr) (rest : List HostMove),
    s.live → ((s.moves = [] ∧ rest = []) ∨ s.moves = .advance :: rest) →
    eventList s.cfg.tables s.time.scanline s.time.dot = some words → words.length ≤ 8 →
    decodeEvents words = some is →
      ∃ u, runInstrs is { s with moves := rest } = .next u ∧
        step s = .next (if u.fault = none then
          { u with time :=
              { cycles := u.time.cycles + 1
                scanline := (nextPosition u.cfg.skipRequiresRendering u.rendering u.time.scanline u.time.dot u.time.oddFrame).1
                dot := (nextPosition u.cfg.skipRequiresRendering u.rendering u.time.scanline u.time.dot u.time.oddFrame).2.1
                oddFrame := (nextPosition u.cfg.skipRequiresRendering u.rendering u.time.scanline u.time.dot u.time.oddFrame).2.2 } }
          else u)

/-- An illegal event word met in the list of a position is `InvariantViolation`: the events before it have run, no later one
does, and no counter advances. So is a list longer than MAX_EVENTS, and a position without a list, where nothing has run
(40_scheduler.md R150, R152, R155, 30_encoding.md R114; what the fault records is the model's, log 7, that a list too long is
met before its events run is log 19, and the queue is log 1). -/
def Obligations.IllegalEventWordStopsTheDot : Prop :=
  ∀ (s : State) (rest : List HostMove), s.live → ((s.moves = [] ∧ rest = []) ∨ s.moves = .advance :: rest) →
    (∀ (before after : List EvtWord) (w : EvtWord) (e : DecodeError) (is : List Instr) (u : State),
      eventList s.cfg.tables s.time.scanline s.time.dot = some (before ++ w :: after) →
      (before ++ w :: after).length ≤ 8 → decodeEvents before = some is → decodeEvt w = .error e →
      runInstrs is { s with moves := rest } = .next u → u.live →
        step s = .next { u with fault := some (.invariantViolation (.eventWord w)) }) ∧
    (∀ words : List EvtWord, eventList s.cfg.tables s.time.scanline s.time.dot = some words → 8 < words.length →
      step s = .next { s with
        moves := rest
        fault := some (.invariantViolation (.overlongList s.time.scanline.val s.time.dot.val)) }) ∧
    (eventList s.cfg.tables s.time.scanline s.time.dot = none →
      step s = .next { s with
        moves := rest
        fault := some (.invariantViolation (.noEventList s.time.scanline.val s.time.dot.val)) })

/-! ### Background events -/

/-- `FETCH_NT` reads the tile index at `0x2000 | v[11:0]` into the nametable latch and changes nothing else
(41_background.md R193, decision D11); with rendering off it does nothing (40_scheduler.md R156). -/
def Obligations.FetchNtReadsTileIndex : Prop :=
  ∀ s : State, s.live →
    exec .fetchNt s = gatedNext s
      { s with bg := { s.bg with ntLatch := s.byteOnBus (0x2000 ||| (s.scroll.v &&& 0x0FFF).setWidth 16) } }

/-- `FETCH_AT` reads the attribute byte of the tile's 4x4 area, area 0x3C0 of the nametable `v[11:10]`, row `coarse_y[4:2]`,
column `coarse_x[4:2]`, and keeps the two bits of the tile's quadrant, 4 for `coarse_y[1]` plus 2 for `coarse_x[1]`
(41_background.md R194, decisions D11, D12). -/
def Obligations.FetchAtKeepsTheQuadrant : Prop :=
  ∀ (s : State) (b : Byte), s.live → s.rendering = true →
    b = s.byteOnBus (BitVec.ofNat 16
      (0x23C0 + 0x400 * (s.scroll.v.extractLsb' 10 2).toNat + 8 * ((coarseY s.scroll.v).toNat / 4)
        + (coarseX s.scroll.v).toNat / 4)) →
    exec .fetchAt s = .next
      { s with bg := { s.bg with
          atLatch := BitVec.ofNat 8
            (b.toNat / 2 ^ ((if (coarseY s.scroll.v).getLsbD 1 then 4 else 0) + (if (coarseX s.scroll.v).getLsbD 1 then 2 else 0))
              % 4) } }

/-- `FETCH_PT_LO` and `FETCH_PT_HI` read the two planes of the tile's row, the second eight bytes on
(41_background.md R195, R196, decision D11). -/
def Obligations.PatternFetchesReadBothPlanes : Prop :=
  ∀ (s : State) (a : Nat), s.live →
    a = 0x1000 * (if s.regs.ctrl.getLsbD 4 then 1 else 0) + 16 * s.bg.ntLatch.toNat + (fineY s.scroll.v).toNat →
    exec .fetchPtLo s = gatedNext s { s with bg := { s.bg with ptLoLatch := s.byteOnBus (BitVec.ofNat 16 a) } } ∧
    exec .fetchPtHi s = gatedNext s { s with bg := { s.bg with ptHiLatch := s.byteOnBus (BitVec.ofNat 16 (a + 8)) } }

/-- `SHIFT` moves all four shift registers left by one: bit 15 is lost and bit 0 becomes 0 (41_background.md R197). -/
def Obligations.ShiftMovesAllFourRegisters : Prop :=
  ∀ s : State, s.live →
    exec .shift s = gatedNext s
      { s with bg := { s.bg with
          bgShiftLo := BitVec.ofNat 16 (2 * s.bg.bgShiftLo.toNat)
          bgShiftHi := BitVec.ofNat 16 (2 * s.bg.bgShiftHi.toNat)
          atShiftLo := BitVec.ofNat 16 (2 * s.bg.atShiftLo.toNat)
          atShiftHi := BitVec.ofNat 16 (2 * s.bg.atShiftHi.toNat) } }

/-- `RELOAD` overwrites the low bytes of the four shift registers and leaves the high bytes (41_background.md R198). -/
def Obligations.ReloadOverwritesLowBytes : Prop :=
  ∀ s : State, s.live → s.rendering = true →
    exec .reload s = .next
      { s with bg := { s.bg with
          bgShiftLo := s.bg.bgShiftLo.extractLsb' 8 8 ++ s.bg.ptLoLatch
          bgShiftHi := s.bg.bgShiftHi.extractLsb' 8 8 ++ s.bg.ptHiLatch
          atShiftLo := s.bg.atShiftLo.extractLsb' 8 8 ++ (if s.bg.atLatch.getLsbD 0 then 0xFF#8 else 0x00#8)
          atShiftHi := s.bg.atShiftHi.extractLsb' 8 8 ++ (if s.bg.atLatch.getLsbD 1 then 0xFF#8 else 0x00#8) } }

/-- `INC_X` increments coarse X; at 31 it wraps to 0 and flips the horizontal nametable bit; no other bit of `v` changes
(41_background.md R199). -/
def Obligations.IncXWrapsAndFlips : Prop :=
  ∀ s : State, s.live → s.rendering = true →
    ∃ v, exec .incX s = .next { s with scroll := { s.scroll with v := v } } ∧
      (coarseX s.scroll.v = 31 → coarseX v = 0 ∧ ntH v = !ntH s.scroll.v) ∧
      (coarseX s.scroll.v ≠ 31 → (coarseX v).toNat = (coarseX s.scroll.v).toNat + 1 ∧ ntH v = ntH s.scroll.v) ∧
      coarseY v = coarseY s.scroll.v ∧ ntV v = ntV s.scroll.v ∧ fineY v = fineY s.scroll.v

/-- `INC_Y` increments fine Y; on its carry coarse Y is incremented, wrapping at 29 with a flip of the vertical nametable
bit and at 31 without one; no other bit of `v` changes (41_background.md R200, decision D13). -/
def Obligations.IncYWrapsAndFlips : Prop :=
  ∀ s : State, s.live → s.rendering = true →
    ∃ v, exec .incY s = .next { s with scroll := { s.scroll with v := v } } ∧
      (fineY s.scroll.v ≠ 7 → (fineY v).toNat = (fineY s.scroll.v).toNat + 1 ∧ coarseY v = coarseY s.scroll.v ∧
        ntV v = ntV s.scroll.v) ∧
      (fineY s.scroll.v = 7 → fineY v = 0 ∧
        (coarseY s.scroll.v = 29 → coarseY v = 0 ∧ ntV v = !ntV s.scroll.v) ∧
        (coarseY s.scroll.v = 31 → coarseY v = 0 ∧ ntV v = ntV s.scroll.v) ∧
        (coarseY s.scroll.v ≠ 29 → coarseY s.scroll.v ≠ 31 →
          (coarseY v).toNat = (coarseY s.scroll.v).toNat + 1 ∧ ntV v = ntV s.scroll.v)) ∧
      coarseX v = coarseX s.scroll.v ∧ ntH v = ntH s.scroll.v

/-- `COPY_X` copies the horizontal bits of `t` into `v`, `COPY_Y` the vertical bits; the rest of `v` and all of `t` stay
(41_background.md R201, R202). -/
def Obligations.ScrollCopiesMoveTheirFields : Prop :=
  ∀ s : State, s.live → s.rendering = true →
    (∃ v, exec .copyX s = .next { s with scroll := { s.scroll with v := v } } ∧
      coarseX v = coarseX s.scroll.t ∧ ntH v = ntH s.scroll.t ∧
      coarseY v = coarseY s.scroll.v ∧ ntV v = ntV s.scroll.v ∧ fineY v = fineY s.scroll.v) ∧
    (∃ v, exec .copyY s = .next { s with scroll := { s.scroll with v := v } } ∧
      coarseY v = coarseY s.scroll.t ∧ ntV v = ntV s.scroll.t ∧ fineY v = fineY s.scroll.t ∧
      coarseX v = coarseX s.scroll.v ∧ ntH v = ntH s.scroll.v)

/-- With rendering off every gated event does nothing at all (40_scheduler.md R156, decision D6). -/
def Obligations.GatedEventsDoNothingWhenOff : Prop :=
  ∀ (s : State) (i : Instr), s.live → s.rendering = false → i.isGated = true → exec i s = .next s

/-! ### Sprite events -/

/-- `OAMADDR_CLEAR` clears `oam_addr`; `EVAL_RESET`, `SPR_LATCH` and `SPR_NONE` write the two counts and the two sprite-0
bits; nothing else changes; `SPR_NONE` whatever `mask` holds (42_sprites.md R222, R223, R230, R231). -/
def Obligations.SpriteCountsFollowTheirEvents : Prop :=
  ∀ s : State, s.live →
    exec .oamaddrClear s = gatedNext s { s with regs := { s.regs with oamAddr := 0 } } ∧
    exec .evalReset s = gatedNext s { s with spr := { s.spr with secCount := 0, spr0Next := false } } ∧
    exec .sprLatch s = gatedNext s { s with spr := { s.spr with sprCount := s.spr.secCount, spr0Cur := s.spr.spr0Next } } ∧
    exec .sprNone s = .next { s with spr := { s.spr with sprCount := 0, spr0Cur := false } }

/-- `SEC_CLEAR` at dot `2k + 2` writes 0xFF to byte `k` of secondary OAM and nothing else; at a dot whose index falls
outside 0..31 it is `InvariantViolation` (42_sprites.md R224). R224 gives an index for even dots only: that an odd dot's
`dot / 2` rounds down, so that dot `2k + 3` writes byte `k` and dot 1 is a violation, is the model's choice (log 8). -/
def Obligations.SecClearWritesOneByte : Prop :=
  ∀ s : State, s.live → s.rendering = true →
    (∀ k : Fin 32, s.time.dot.val = 2 * k.val + 2 ∨ s.time.dot.val = 2 * k.val + 3 →
      exec .secClear s = .next { s with spr := { s.spr with secOam := s.spr.secOam.set k.val 0xFF } }) ∧
    (s.time.dot.val < 2 ∨ 66 ≤ s.time.dot.val →
      ∃ info, exec .secClear s = .next { s with fault := some (.invariantViolation info) })

/-- `SPR_EVAL` at dot `65 + 2n` examines sprite `n`: a sprite that covers the upcoming scanline is copied into the next free
slot while fewer than 8 are, and sets the overflow flag when 8 are; any other sprite changes nothing;
a sprite number outside 0..63 is `InvariantViolation`, and nothing but the fault is written (42_sprites.md R226, decisions
D16, D17, D42). R226 gives the number for odd dots from 65 on only: that `(dot - 65) >> 1` rounds down at an even dot, so that
dot `66 + 2n` examines sprite `n` too, and is negative below dot 65, is the model's choice (log 8). -/
def Obligations.SprEvalExaminesOneSprite : Prop :=
  ∀ s : State, s.live → s.rendering = true →
    ((s.time.dot.val < 65 ∨ 193 ≤ s.time.dot.val) →
      ∃ info, exec .sprEval s = .next { s with fault := some (.invariantViolation info) }) ∧
    ∀ n : Fin 64, s.time.dot.val = 65 + 2 * n.val ∨ s.time.dot.val = 66 + 2 * n.val →
    let y := (s.oamAt (4 * n.val)).toNat
    let h := if s.regs.ctrl.getLsbD 5 then 16 else 8
    let covers := y ≤ s.time.scanline.val ∧ s.time.scanline.val < y + h
    (covers → s.spr.secCount.val < 8 →
      ∃ sec count, exec .sprEval s = .next
          { s with spr := { s.spr with
              secOam := sec, secCount := count, spr0Next := s.spr.spr0Next || decide (n.val = 0) } } ∧
        count.val = s.spr.secCount.val + 1 ∧
        ∀ k : Fin 32, sec[k] =
          if k.val / 4 = s.spr.secCount.val then s.oamAt (4 * n.val + k.val % 4) else s.spr.secOam[k]) ∧
    (covers → s.spr.secCount.val = 8 →
      exec .sprEval s = .next { s with status := { s.status with overflow := true } }) ∧
    (¬ covers → exec .sprEval s = .next s)

/-- The 64 examinations of a scanline, from a count of 0: the count ends as the number of covering sprites, at most 8; the
slots hold the lowest-numbered of them in index order; the overflow flag is set exactly when there are more than 8;
`spr0_next` is set exactly when sprite 0 is one of them (42_sprites.md R226, R227; the correct-count version the spec
chooses, decision D16). -/
def Obligations.EvaluationKeepsTheFirstEight : Prop :=
  ∀ s : State, s.spr.secCount = 0 →
    (evaluateAll s).spr.secCount.val = min 8 s.coveringSprites.length ∧
    (evaluateAll s).status.overflow = (s.status.overflow || decide (8 < s.coveringSprites.length)) ∧
    (evaluateAll s).spr.spr0Next = (s.spr.spr0Next || decide (0 ∈ s.coveringSprites)) ∧
    ∀ (k : Fin 8) (n : Nat), s.coveringSprites[k.val]? = some n →
      ∀ j : Fin 4, (evaluateAll s).spr.secOam[4 * k.val + j.val]'(by omega) = s.oamAt (4 * n + j.val)

/-- `SPR_LOAD i` loads the attribute and the X byte of slot `i` and nothing else (42_sprites.md R232). -/
def Obligations.SprLoadLoadsTheSlot : Prop :=
  ∀ (s : State) (i : BitVec 3), s.live → s.rendering = true →
    ∃ attr x, exec (.sprLoad i) s = .next { s with spr := { s.spr with attr := attr, x := x } } ∧
      ∀ k : Fin 8,
        attr[k] = (if k.val = i.toNat then s.spr.secOam[4 * k.val + 2] else s.spr.attr[k]) ∧
        x[k] = (if k.val = i.toNat then s.spr.secOam[4 * k.val + 3] else s.spr.x[k])

/-- `SPR_FETCH_LO i` and `SPR_FETCH_HI i` put the row byte at `SprAddr(i)`, for the high plane eight bytes on, into their
slot, reversed when the attribute asks for it; an empty slot gets 0 (42_sprites.md R234, R235, R236). -/
def Obligations.SpriteFetchesFillTheSlot : Prop :=
  ∀ (s : State) (i : BitVec 3), s.live → s.rendering = true →
    let attr := s.slotAttr i
    let flip := fun b : Byte => if attr.getLsbD 6 then b.reverse else b
    let a := sprAddr s.regs.ctrl s.time.scanline.val (s.secByte i 0) (s.secByte i 1) attr
    exec (.sprFetchLo i) s = .next { s with spr := { s.spr with
      patLo := s.spr.patLo.set i.toNat
        (if i.toNat < s.spr.sprCount.val then flip (s.byteOnBus a) else 0) i.isLt } } ∧
    exec (.sprFetchHi i) s = .next { s with spr := { s.spr with
      patHi := s.spr.patHi.set i.toNat
        (if i.toNat < s.spr.sprCount.val then flip (s.byteOnBus (a + 8)) else 0) i.isLt } }

/-- Every address a fetch presents: the nametable fetches stay in the nametables, the pattern and sprite fetches, the high
plane included, in the 8 KB of character memory (20_memory.md R79, 41_background.md R190, 42_sprites.md R234). -/
def Obligations.FetchAddressesStayInTheirWindows : Prop :=
  (∀ v : VramAddr, 0x2000 ≤ (ntAddr v).toNat ∧ (ntAddr v).toNat < 0x3000 ∧
    0x23C0 ≤ (atAddr v).toNat ∧ (atAddr v).toNat < 0x3000) ∧
  (∀ (ctrl nt : Byte) (v : VramAddr), (patternAddr ctrl nt v).toNat + 8 < 0x2000 ∧
    (patternAddr ctrl nt v + 8).toNat = (patternAddr ctrl nt v).toNat + 8) ∧
  (∀ (ctrl y tile attr : Byte) (sc : Nat), (sprAddr ctrl sc y tile attr).toNat + 8 < 0x2000)

/-- `SprAddr`: the row is the scanline's distance from Y modulo 256, reduced to the sprite's height and counted from the
bottom when bit 7 of the attribute is set; of 8 rows it lies in the tile of the pattern table `ctrl[3]`, of 16 rows in one
of the two tiles of the pattern table that bit 0 of the tile byte names (42_sprites.md R234, decision D18). -/
def Obligations.SpriteAddressFindsTheRow : Prop :=
  ∀ (ctrl y tile attr : Byte) (sc : Nat),
    let row := (sc + 256 - y.toNat) % 256
    (ctrl.getLsbD 5 = false →
      (sprAddr ctrl sc y tile attr).toNat =
        0x1000 * (if ctrl.getLsbD 3 then 1 else 0) + 16 * tile.toNat
          + (if attr.getLsbD 7 then 7 - row % 8 else row % 8)) ∧
    (ctrl.getLsbD 5 = true →
      (sprAddr ctrl sc y tile attr).toNat =
        0x1000 * (tile.toNat % 2) + 32 * (tile.toNat / 2)
          + (let r := if attr.getLsbD 7 then 15 - row % 16 else row % 16
             16 * (r / 8) + r % 8))

/-! ### The pixel -/

/-- `PIXEL` writes the colour of the selected palette byte into the cell of its position, sets `S0` on a sprite-0 hit, and
changes nothing else (43_pixel.md R260, R265, R268, R269). A cell outside the visible window, rows 0..239 and columns 1..256,
is never written (10_state.md R44); the column of a dot outside 1..256, and that a hit is recorded there, is the model's
(log 9). -/
def Obligations.PixelDrawsOneCell : Prop :=
  ∀ s : State, s.live →
    let x : Int := (s.time.dot.val : Int) - 1
    let b := s.bgPixel x
    let p := s.sprPixel x
    ∃ cells, exec .pixel s = .next
        { s with
          colorBuf := cells
          status := { s.status with
            spr0Hit := s.status.spr0Hit || (decide (b.pix ≠ 0) && decide (p.pix ≠ 0) && p.isZero) } } ∧
      ∀ (sc : Fin 262) (d : Fin 341), ({ s with colorBuf := cells } : State).colourAt sc d =
        if sc = s.time.scanline ∧ d = s.time.dot ∧ sc.val ≤ 239 ∧ 1 ≤ d.val ∧ d.val ≤ 256
        then Config.systemPalette ((s.byteOnBus (paletteAddr b p)).setWidth 6)
        else s.colourAt sc d

/-- Where a layer is shown, and what its pixel is: the background pixel is bit `15 - fine_x` of the four shift registers, 0
where the layer is not shown; a slot has an opaque pixel at a column exactly where the column is one of the eight from its X
on and one of its two pattern bits there is 1, with the palette and the priority of its attribute (43_pixel.md R262 and the
loop body of R263, decision D20). -/
def Obligations.PixelSourcesAreTheRegisters : Prop :=
  ∀ (s : State) (x : Int),
    (s.layerShown 3 1 x = true ↔ s.regs.mask.getLsbD 3 = true ∧ (8 ≤ x ∨ s.regs.mask.getLsbD 1 = true)) ∧
    (s.layerShown 4 2 x = true ↔ s.regs.mask.getLsbD 4 = true ∧ (8 ≤ x ∨ s.regs.mask.getLsbD 2 = true)) ∧
    (s.layerShown 3 1 x = false → s.bgPixel x = { pix := 0, pal := 0 }) ∧
    (s.layerShown 3 1 x = true →
      (s.bgPixel x).pix.toNat = 2 * (s.bg.bgShiftHi.getLsbD (15 - s.scroll.fineX.toNat)).toNat
        + (s.bg.bgShiftLo.getLsbD (15 - s.scroll.fineX.toNat)).toNat ∧
      (s.bgPixel x).pal.toNat = 2 * (s.bg.atShiftHi.getLsbD (15 - s.scroll.fineX.toNat)).toNat
        + (s.bg.atShiftLo.getLsbD (15 - s.scroll.fineX.toNat)).toNat) ∧
    ∀ i : Fin 8,
      (x < s.spr.x[i].toNat ∨ s.spr.x[i].toNat + 7 < x → s.slotPixel x i = none) ∧
      ∀ off : Fin 8, x = s.spr.x[i].toNat + off.val →
        (s.spr.patLo[i].getLsbD (7 - off.val) = false → s.spr.patHi[i].getLsbD (7 - off.val) = false →
          s.slotPixel x i = none) ∧
        (s.spr.patLo[i].getLsbD (7 - off.val) = true ∨ s.spr.patHi[i].getLsbD (7 - off.val) = true →
          ∃ p, s.slotPixel x i = some p ∧
            p.pix.toNat = 2 * (s.spr.patHi[i].getLsbD (7 - off.val)).toNat
              + (s.spr.patLo[i].getLsbD (7 - off.val)).toNat ∧
            p.pal.toNat = s.spr.attr[i].toNat % 4 ∧ p.behind = s.spr.attr[i].getLsbD 5 ∧
            (p.isZero = true ↔ i = 0 ∧ s.spr.spr0Cur = true))

/-- The lowest live slot with an opaque pixel at the column supplies the sprite pixel; with none, or with the layer not
shown, the sprite pixel is transparent (43_pixel.md R263, decision D15). -/
def Obligations.LowestOpaqueSlotWins : Prop :=
  ∀ (s : State) (x : Int),
    (s.layerShown 4 2 x = false → s.sprPixel x = SprPixel.transparent) ∧
    (s.layerShown 4 2 x = true →
      ((∀ i : Fin 8, i.val < s.spr.sprCount.val → s.slotPixel x i = none) → s.sprPixel x = SprPixel.transparent) ∧
      ∀ (i : Fin 8) (p : SprPixel), i.val < s.spr.sprCount.val → s.slotPixel x i = some p →
        (∀ j : Fin 8, j.val < i.val → s.slotPixel x j = none) → s.sprPixel x = p)

/-- The palette address: the universal background for two transparent pixels, else a slot that is never one of the aliased
ones, of the layer that is opaque, or of the layer the priority bit chooses when both are (43_pixel.md R267). -/
def Obligations.PaletteAddressNeverAliased : Prop :=
  ∀ (b : BgPixel) (p : SprPixel),
    (b.pix = 0 → p.pix = 0 → paletteAddr b p = 0x3F00) ∧
    (p.pix ≠ 0 → (b.pix = 0 ∨ p.behind = false) →
      (paletteAddr b p).toNat = 0x3F10 + 4 * p.pal.toNat + p.pix.toNat ∧
      palSlot (paletteAddr b p) = 0x10 + 4 * p.pal.toNat + p.pix.toNat) ∧
    (b.pix ≠ 0 → (p.pix = 0 ∨ p.behind = true) →
      (paletteAddr b p).toNat = 0x3F00 + 4 * b.pal.toNat + b.pix.toNat ∧
      palSlot (paletteAddr b p) = 4 * b.pal.toNat + b.pix.toNat)

/-- With both layers off `PIXEL` draws the universal background colour and no hit is possible (43_pixel.md R270); outside the
visible window, where no cell is ever written (10_state.md R44), it changes nothing. -/
def Obligations.RenderingOffDrawsBackground : Prop :=
  ∀ s : State, s.live → s.rendering = false →
    exec .pixel s = .next
      (if s.time.scanline.val ≤ 239 ∧ 1 ≤ s.time.dot.val ∧ s.time.dot.val ≤ 256
       then s.setColour s.time.scanline s.time.dot (Config.systemPalette ((s.vramAt 0x800).setWidth 6))
       else s)

/-! ### The interrupt controller -/

/-- `CLEAR_STATUS` clears the three flags and touches neither the line nor the suppression flags (60_exceptions.md R363);
`NONE` has no effect (the first clause of 40_scheduler.md R155). -/
def Obligations.ClearStatusClearsTheFlags : Prop :=
  ∀ s : State, s.live →
    exec .clearStatus s = .next { s with status := { vblank := false, spr0Hit := false, overflow := false } } ∧
    exec .noneEvt s = .next s

/-- `VBLANK_SET`: V is set unless `sup_vbl`; the line is asserted if neither flag is set and `ctrl[7] = 1`; both flags are
consumed (60_exceptions.md R362). -/
def Obligations.VblankSetRaisesFlagAndLine : Prop :=
  ∀ s : State, s.live →
    exec .vblankSet s = .next
      { s with
        status := { s.status with vblank := if s.sup.vbl = false then true else s.status.vblank }
        irqLine :=
          if s.sup.vbl = false ∧ s.sup.nmi = false ∧ s.regs.ctrl.getLsbD 7 = true then true else s.irqLine
        sup := { vbl := false, nmi := false } }

/-! ### Port operations -/

/-- `WR_CTRL`: `ctrl` and `io_bus` take the byte, its two low bits go to `t[11:10]`, the rest of `t` stays; only under
NMI_ON_ENABLE does turning `ctrl[7]` on while V is set assert the line (44_register_ports.md R284). -/
def Obligations.WrCtrlMovesNametableBits : Prop :=
  ∀ (s : State) (m : BitVec 10) (val : Byte), s.live →
    ∃ t, exec (.wrCtrl m val) s = .next
        { s with
          regs := { s.regs with ctrl := val, ioBus := val }
          scroll := { s.scroll with t := t }
          irqLine :=
            if s.cfg.nmiOnEnable = true ∧ s.regs.ctrl.getLsbD 7 = false ∧ val.getLsbD 7 = true ∧ s.status.vblank = true
            then true else s.irqLine } ∧
      ntH t = val.getLsbD 0 ∧ ntV t = val.getLsbD 1 ∧
      coarseX t = coarseX s.scroll.t ∧ coarseY t = coarseY s.scroll.t ∧ fineY t = fineY s.scroll.t

/-- `WR_MASK`, `WR_STATUS` and `WR_OAMADDR` write their register and `io_bus`, and nothing else; `status` is not writable
(44_register_ports.md R283, R285, R287). -/
def Obligations.RegisterWritesStoreTheByte : Prop :=
  ∀ (s : State) (m : BitVec 10) (val : Byte), s.live →
    exec (.wrMask m val) s = .next { s with regs := { s.regs with ioBus := val, mask := val } } ∧
    exec (.wrStatus m val) s = .next { s with regs := { s.regs with ioBus := val } } ∧
    exec (.wrOamaddr m val) s = .next { s with regs := { s.regs with ioBus := val, oamAddr := val } }

/-- A read of a write-only port returns `io_bus` and changes no state of the block (44_register_ports.md R282); the returned
byte is kept in the model's own field `answer` (log 2). -/
def Obligations.OpenReadsReturnTheBus : Prop :=
  ∀ (s : State) (m : BitVec 10), s.live →
    ∀ i ∈ [Instr.rdOpenP0 m, .rdOpenP1 m, .rdOpenP3 m, .rdOpenP5 m, .rdOpenP6 m],
      exec i s = .next { s with answer := some (.byte s.regs.ioBus) }

/-- `RD_STATUS` returns the three flags over the low bits of `io_bus`, clears V and `w`, sets both suppression flags at
(241, 1), clears the line at (241, 2) and (241, 3), and puts the byte on `io_bus` (44_register_ports.md R286, decisions D22,
D40); the returned byte is kept in the model's own field `answer` (log 2). -/
def Obligations.RdStatusReadsAndClears : Prop :=
  ∀ (s : State) (m : BitVec 10), s.live →
    ∃ r : Byte, exec (.rdStatus m) s = .next
        { s with
          status := { s.status with vblank := false }
          scroll := { s.scroll with w := false }
          sup := if s.time.scanline = 241 ∧ s.time.dot = 1 then { vbl := true, nmi := true } else s.sup
          irqLine := if s.time.scanline = 241 ∧ (s.time.dot = 2 ∨ s.time.dot = 3) then false else s.irqLine
          regs := { s.regs with ioBus := r }
          answer := some (.byte r) } ∧
      r.getLsbD 7 = s.status.vblank ∧ r.getLsbD 6 = s.status.spr0Hit ∧ r.getLsbD 5 = s.status.overflow ∧
      ∀ i : Fin 5, r.getLsbD i.val = s.regs.ioBus.getLsbD i.val

/-- `RD_OAMDATA` returns `oam[oam_addr]` and leaves `oam_addr`; `WR_OAMDATA` stores at `oam_addr`, leaves every other byte of
OAM alone, and steps `oam_addr` modulo 256 (44_register_ports.md R288, R289); the returned byte is kept in the model's own
field `answer` (log 2). -/
def Obligations.OamPortReadsAndWrites : Prop :=
  ∀ (s : State) (m : BitVec 10) (val : Byte), s.live →
    exec (.rdOamdata m) s = .next
      { s with
        regs := { s.regs with ioBus := s.oamAt s.regs.oamAddr.toNat }
        answer := some (.byte (s.oamAt s.regs.oamAddr.toNat)) } ∧
    ∃ cells, exec (.wrOamdata m val) s = .next
        { s with
          oam := cells
          regs := { s.regs with ioBus := val, oamAddr := BitVec.ofNat 8 (s.regs.oamAddr.toNat + 1) } } ∧
      ∀ k, ({ s with oam := cells } : State).oamAt k = if k = s.regs.oamAddr.toNat then val else s.oamAt k

/-- `WR_SCROLL`: with `w = 0` coarse X goes to `t` and fine X to `fine_x`; with `w = 1` fine Y and coarse Y go to `t`; `w`
toggles and the other fields stay (44_register_ports.md R290, R291). -/
def Obligations.ScrollWritesFillTheirFields : Prop :=
  ∀ (s : State) (m : BitVec 10) (val : Byte), s.live →
    (s.scroll.w = false → ∃ t, exec (.wrScroll m val) s = .next
        { s with
          regs := { s.regs with ioBus := val }
          scroll := { s.scroll with t := t, fineX := val.setWidth 3, w := true } } ∧
      (coarseX t).toNat = val.toNat / 8 ∧ coarseY t = coarseY s.scroll.t ∧ ntH t = ntH s.scroll.t ∧
      ntV t = ntV s.scroll.t ∧ fineY t = fineY s.scroll.t) ∧
    (s.scroll.w = true → ∃ t, exec (.wrScroll m val) s = .next
        { s with
          regs := { s.regs with ioBus := val }
          scroll := { s.scroll with t := t, w := false } } ∧
      (fineY t).toNat = val.toNat % 8 ∧ (coarseY t).toNat = val.toNat / 8 ∧ coarseX t = coarseX s.scroll.t ∧
      ntH t = ntH s.scroll.t ∧ ntV t = ntV s.scroll.t)

/-- `WR_ADDR`: with `w = 0` the low six bits of the byte become `t[13:8]` and `t[14]` becomes 0; with `w = 1` the byte
becomes `t[7:0]` and the whole of `t` goes to `v`; `w` toggles (44_register_ports.md R292, R293). -/
def Obligations.AddressWritesHighThenLow : Prop :=
  ∀ (s : State) (m : BitVec 10) (val : Byte), s.live →
    (s.scroll.w = false → exec (.wrAddr m val) s = .next
      { s with
        regs := { s.regs with ioBus := val }
        scroll := { s.scroll with
          t := BitVec.ofNat 15 (val.toNat % 64 * 256 + s.scroll.t.toNat % 256), w := true } }) ∧
    (s.scroll.w = true → ∃ t, t.toNat = s.scroll.t.toNat / 256 * 256 + val.toNat ∧
      exec (.wrAddr m val) s = .next
        { s with
          regs := { s.regs with ioBus := val }
          scroll := { s.scroll with t := t, v := t, w := false } })

/-- `RD_DATA`: below 0x3F00 the buffer is returned and refilled from the bus; from 0x3F00 on the bus byte is returned and
the buffer takes the byte 0x1000 below; `io_bus` takes the returned byte and `v` steps by 1 or 32 modulo 2^15
(44_register_ports.md R295, R296, decision D39); the returned byte is kept in the model's own field `answer` (log 2). -/
def Obligations.DataReadsAreBuffered : Prop :=
  ∀ (s : State) (m : BitVec 10) (a : Nat), s.live → a = s.scroll.v.toNat % 0x4000 →
    exec (.rdData m) s = .next
      (let r := if a < 0x3F00 then s.regs.dataBuf else s.byteOnBus (BitVec.ofNat 16 a)
       { s with
         regs := { s.regs with
           ioBus := r
           dataBuf := s.byteOnBus (BitVec.ofNat 16 (if a < 0x3F00 then a else a - 0x1000)) }
         answer := some (.byte r)
         scroll := { s.scroll with
           v := BitVec.ofNat 15 (s.scroll.v.toNat + if s.regs.ctrl.getLsbD 2 then 32 else 1) } })

/-- `WR_DATA` outside the pattern area stores the byte in the cell the address resolves to and in no other, puts it on
`io_bus`, and steps `v`; into the pattern area it is `IllegalCartridgeWrite`: `io_bus` has been written, `vram` and `v` have
not (44_register_ports.md R295, R297). -/
def Obligations.DataWritesStoreOneCellOrFault : Prop :=
  ∀ (s : State) (m : BitVec 10) (val : Byte) (a : Addr), s.live → a = BitVec.ofNat 16 (s.scroll.v.toNat % 0x4000) →
    (0x2000 ≤ a.toNat → ∃ cells, exec (.wrData m val) s = .next
        { s with
          vram := cells
          regs := { s.regs with ioBus := val }
          scroll := { s.scroll with
            v := BitVec.ofNat 15 (s.scroll.v.toNat + if s.regs.ctrl.getLsbD 2 then 32 else 1) } } ∧
      ∀ k, ({ s with vram := cells } : State).vramAt k =
        if resolve s.cfg.mirroring a = .cell k then val else s.vramAt k) ∧
    (a.toNat < 0x2000 → exec (.wrData m val) s = .next
      { s with regs := { s.regs with ioBus := val }, fault := some (.illegalCartridgeWrite a) })

/-- `WR_OAMDMA` copies its 256 bytes into OAM from `oam_addr` on, wrapping, whatever the page byte is; `oam_addr` ends where
it started and `io_bus` gets the last byte (44_register_ports.md R300, decision D31). -/
def Obligations.OamDmaFillsFromOamAddr : Prop :=
  ∀ (s : State) (page : Byte) (data : List Byte) (hd : data.length = 256), s.live →
    ∃ cells, exec (.wrOamdma page data) s = .next
        { s with oam := cells, regs := { s.regs with ioBus := data[255] } } ∧
      ∀ i : Fin 256, ({ s with oam := cells } : State).oamAt ((s.regs.oamAddr.toNat + i.val) % 256) = data[i.val]

/-! ### The bus and the mapper -/

/-- A bus read never faults and gives the byte of the address map; a bus write at or above 0x2000 is seen by the next read
of the address and changes no cell but the one it resolves to; below, it is refused (20_memory.md R76, R77). -/
def Obligations.BusReadsAndWrites : Prop :=
  ∀ (s : State) (a : Addr) (b : Byte),
    s.busRead a = .ok (s.byteOnBus a) ∧
    (0x2000 ≤ a.toNat → ∃ u, s.busWrite a b = .ok u ∧ u.byteOnBus a = b ∧ u = { s with vram := u.vram } ∧
      ∀ a', resolve s.cfg.mirroring a' ≠ resolve s.cfg.mirroring a → u.byteOnBus a' = s.byteOnBus a') ∧
    (a.toNat < 0x2000 → s.busWrite a b = .error (.illegalCartridgeWrite a))

/-- Mirroring: a palette slot is the low five bits of the address, the four sprite background slots being those of the
background, and it is idempotent; the nametables repeat every 0x800 under vertical mirroring, and in pairs of 0x400 under
horizontal (20_memory.md R73, R74). -/
def Obligations.MirroringFoldsTheWindows : Prop :=
  (∀ a : Addr, palSlot a = (if a.toNat % 4 = 0 then a.toNat % 16 else a.toNat % 32) ∧
    palSlot (0x3F00 + BitVec.ofNat 16 (palSlot a)) = palSlot a) ∧
  ∀ a : Addr, 0x2000 ≤ a.toNat → a.toNat < 0x3F00 →
    ntIndex .vertical a = (a.toNat - 0x2000) % 0x800 ∧
    ntIndex .horizontal a = (a.toNat - 0x2000) / 0x800 % 2 * 0x400 + (a.toNat - 0x2000) % 0x400

/-- The mapper's CPU side, called by the CPU bus: a read of the program window returns the byte at the folded index, a read
below it is `InvariantViolation`; a write is refused in both places, and nothing but the fault is written
(45_mapper.md R339, R340, R341, 60_exceptions.md R350). The address as the record of an `InvariantViolation` is the model's
form of it (log 7), the returned byte is kept in the model's own field `answer` (log 2), and the queue is log 1. -/
def Obligations.MapperCpuSide : Prop :=
  ∀ (s : State) (a : Addr) (b : Byte) (rest : List HostMove), s.live →
    (s.cfg.prgSize = 0x4000 ∨ s.cfg.prgSize = 0x8000) →
    (s.moves = .mapperReadCpu a :: rest →
      (0x8000 ≤ a.toNat → step s = .next
        { s with moves := rest, answer := some (.byte (s.prgAt ((a.toNat - 0x8000) % s.cfg.prgSize))) }) ∧
      (a.toNat < 0x8000 → step s = .next
        { s with moves := rest, fault := some (.invariantViolation (.address a)) })) ∧
    (s.moves = .mapperWriteCpu a b :: rest →
      (0x8000 ≤ a.toNat → step s = .next { s with moves := rest, fault := some (.illegalCartridgeWrite a) }) ∧
      (a.toNat < 0x8000 → step s = .next
        { s with moves := rest, fault := some (.invariantViolation (.address a)) }))

/-! ### The scheduler -/

/-- The position advances by one dot of the frame; from the last dot to (0, 0), where `odd_frame` toggles; and on an odd
frame from (261, 339) to (0, 0), unless SKIP_REQUIRES_RENDERING holds it and rendering is off. With the decided tables every
dot completes from a state without a fault (40_scheduler.md R170, R150). -/
def Obligations.EveryDotAdvancesThePosition : Prop :=
  ∀ s : State, s.live → s.runsDecidedTables → s.moves = [] →
    ∃ u, step s = .next u ∧ u.live ∧ u.moves = [] ∧ u.cfg = s.cfg ∧ u.regs.mask = s.regs.mask ∧
      u.time.cycles = s.time.cycles + 1 ∧
      (s.frameDot = 89341 → u.frameDot = 0 ∧ u.time.oddFrame = !s.time.oddFrame) ∧
      (s.frameDot = 89340 → s.time.oddFrame = true → (s.cfg.skipRequiresRendering = false ∨ s.rendering = true) →
        u.frameDot = 0 ∧ u.time.oddFrame = false) ∧
      (s.frameDot ≠ 89341 →
        ¬ (s.frameDot = 89340 ∧ s.time.oddFrame = true ∧ (s.cfg.skipRequiresRendering = false ∨ s.rendering = true)) →
        u.frameDot = s.frameDot + 1 ∧ u.time.oddFrame = s.time.oddFrame)

/-- Frame length with the decided tables: from (0, 0) an even frame returns to (0, 0) after 89342 steps and an odd frame after
89341, but with SKIP_REQUIRES_RENDERING and rendering off after 89342 too; and `odd_frame` alternates (40_scheduler.md R171).
No host move comes in between, so `rendering` is the same throughout the frame (queue: log 1). -/
def Obligations.FrameLengthAlternates : Prop :=
  ∀ (s : State) (dots : Nat), s.live → s.runsDecidedTables → s.moves = [] → s.frameDot = 0 →
    dots = (if s.time.oddFrame = true ∧ (s.cfg.skipRequiresRendering = false ∨ s.rendering = true) then 89341 else 89342) →
    ∃ u, runSteps dots s = .next u ∧ u.frameDot = 0 ∧ u.time.oddFrame = !s.time.oddFrame ∧
      u.time.cycles = s.time.cycles + dots

/-- In the decided tables `VBLANK_SET` stands at (241, 1) and `CLEAR_STATUS` at (261, 1) and nowhere else, and every list
has at most 8 events, every one of them legal and in the order of the stages; and they are admissible, in the model's reading
of the constraints on any table (40_scheduler.md R157, R159, R172, 30_encoding.md R113, R114; the reading is log 16). -/
def Obligations.DecidedTablesPlaceTheFlagEvents : Prop :=
  tablesAdmissible decidedTables = true ∧ ∀ (scanline : Fin 262) (dot : Fin 341), ∃ words, eventList decidedTables scanline dot = some words ∧
    words.length ≤ 8 ∧ stagesRise 0 words = true ∧
    (0x68#8 ∈ words ↔ scanline = 241 ∧ dot = 1) ∧ (0x60#8 ∈ words ↔ scanline = 261 ∧ dot = 1)

/-! ### Whole-machine rules -/

/-- No event writes what only the ports may write: `ctrl`, `mask`, `t`, `fine_x`, `w`, `oam`, `vram`, the two bus bytes, or
the configuration; nor the queue of host moves (60_exceptions.md R370, and 10_state.md R60 for `w` and the two bus bytes,
R21 for the configuration). -/
def Obligations.EventsKeepPortState : Prop :=
  ∀ (i : Instr) (s t : State), i.isEvent = true → exec i s = .next t →
    SamePortState s t ∧ t.moves = s.moves ∧ t.answer = s.answer

/-- No port operation writes the pipelines, the counters, `S0`, `OVF`, the colour buffer or the configuration
(60_exceptions.md R370, 10_state.md R21). -/
def Obligations.PortsKeepPipelines : Prop :=
  ∀ (i : Instr) (s t : State), i.isEvent = false → exec i s = .next t →
    SamePipelines s t ∧ t.moves = s.moves

/-- What a port operation does and returns does not depend on the pipelines or the colour buffer: on a state with any other
pipelines it does the same. It follows from the readers 10_state.md R31 to R39 and R44 name and from the pseudocode of the
ports, 44_register_ports.md R282 to R300. -/
def Obligations.PortsCannotSeePipelines : Prop :=
  ∀ (i : Instr) (s t : State) (bg : Background) (spr : Sprites) (cells : Cells Rgb), i.isEvent = false →
    exec i s = .next t →
    exec i { s with bg := bg, spr := spr, colorBuf := cells } =
      .next { t with bg := bg, spr := spr, colorBuf := cells }

/-- A recorded fault is fatal: no step, and no well-formed operation, has a next state (60_exceptions.md R352). -/
def Obligations.RecordedFaultIsFatal : Prop :=
  ∀ (s : State) (f : FaultInfo), s.fault = some f →
    step s = .fault (.halted f) ∧ ∀ i : Instr, i.wellFormed = true → exec i s = .fault (.halted f)

/-- With the decided tables, the only fault a step of the Engine, of the ports or of the driver can record is
`IllegalCartridgeWrite`, by a data write into the pattern area; the calls of the mapper's CPU side are the other agent
(60_exceptions.md R351). -/
def Obligations.OnlyDataWritesFault : Prop :=
  ∀ s t : State, s.runsDecidedTables →
    (∀ a rest, s.moves ≠ .mapperReadCpu a :: rest) → (∀ a b rest, s.moves ≠ .mapperWriteCpu a b :: rest) →
    step s = .next t → t.fault ≠ none →
    ∃ w ops m val rest, s.moves = .port w ops :: rest ∧ decodePort w ops = .ok (.wrData m val) ∧
      s.scroll.v.toNat % 0x4000 < 0x2000 ∧
      t.fault = some (.illegalCartridgeWrite (BitVec.ofNat 16 (s.scroll.v.toNat % 0x4000)))

/-- The invariant of a session, `Inv`, is kept by every step, whatever the tables, the configuration and the queue of host
moves are: canonical memories (log 4), no cell of `color_buf` outside the visible window ever written (10_state.md R44), a
validated configuration, `at_latch` in 0..3 (R32), sprite 0 only in a filled slot (R38, R39), no recorded `ConfigError`
(60_exceptions.md R352). -/
def Obligations.StepKeepsSessionInvariant : Prop :=
  ∀ s t : State, Inv s → step s = .next t → Inv t

/-- The invariant holds at reset, and the suppression flags are clear there (10_state.md R58; the session the reset state
stands in is the model's, log 3). -/
def Obligations.ResetMeetsSessionInvariant : Prop :=
  Inv State.reset ∧ SuppressionOnlyAtRace State.reset

/-- The suppression flags are non-zero only between a status read at (241, 1) and the next `AdvanceOneDot`: with the decided
tables every step keeps it (60_exceptions.md R364). -/
def Obligations.SuppressionLastsOneDot : Prop :=
  ∀ s t : State, s.runsDecidedTables → SuppressionOnlyAtRace s → step s = .next t →
    SuppressionOnlyAtRace t ∧ t.runsDecidedTables

/-! ### Reset, construction, queries -/

/-- `Reset` writes zero to every register, latch and counter of the Engine, and leaves the colour buffer, `oam`, `vram`, the
line, the fault record and the configuration (70_reset_and_hazards.md R391, 10_state.md R58, R59). -/
def Obligations.ResetZeroesTheEngine : Prop :=
  ∀ (s : State) (rest : List HostMove), s.live → s.moves = .reset :: rest →
    step s = .next
      { cfg := s.cfg, oam := s.oam, vram := s.vram, colorBuf := s.colorBuf, irqLine := s.irqLine, fault := none,
        moves := rest, answer := s.answer
        regs := { ctrl := 0, mask := 0, oamAddr := 0, ioBus := 0, dataBuf := 0 }
        status := { vblank := false, spr0Hit := false, overflow := false }
        scroll := { v := 0, t := 0, fineX := 0, w := false }
        bg := { ntLatch := 0, atLatch := 0, ptLoLatch := 0, ptHiLatch := 0,
                bgShiftLo := 0, bgShiftHi := 0, atShiftLo := 0, atShiftHi := 0 }
        spr := { secOam := Vector.replicate 32 0, secCount := 0, spr0Next := false, sprCount := 0, spr0Cur := false,
                 patLo := Vector.replicate 8 0, patHi := Vector.replicate 8 0, attr := Vector.replicate 8 0,
                 x := Vector.replicate 8 0 }
        sup := { vbl := false, nmi := false }
        time := { cycles := 0, scanline := 0, dot := 0, oddFrame := false } }

/-- Construction succeeds exactly on a valid configuration; otherwise the outcome is a `ConfigError` and no state. The state
it gives meets the session invariant, stands at position (0, 0) of an even frame with no fault and the line de-asserted, and
its character and program memory are the cartridge's (45_mapper.md R330, R331, 10_state.md R57, 30_encoding.md R114). That
construction stands outside the step is log 10; the canonical memories of the invariant are log 4. -/
def Obligations.ConstructionValidatesTheCartridge : Prop :=
  ∀ (c : Cartridge) (p : Parameters),
    let valid := c.mapperKind = 0 ∧ (c.mirroring = .vertical ∨ c.mirroring = .horizontal) ∧
      (c.prg.length = 0x4000 ∨ c.prg.length = 0x8000) ∧ c.chr.length = 0x2000 ∧ tablesValid p.tables = true
    (¬ valid → ∃ e, construct c p = .fault (.configError e)) ∧
    (valid → ∃ t, construct c p = .next t ∧ Inv t ∧ t.frameDot = 0 ∧ t.time.oddFrame = false ∧ t.live ∧
      t.irqLine = false ∧ (∀ k (h : k < c.chr.length), t.chrAt k = c.chr[k]) ∧
      (∀ k (h : k < c.prg.length), t.prgAt k = c.prg[k]))

/-- The queries of the driver, of the CPU side and of the presenter answer and change no state of the block; `IrqClear`
clears the line and nothing else (44_register_ports.md R303, 60_exceptions.md R365, 20_memory.md R94); the answer is kept in
the model's own field (log 2). -/
def Obligations.QueriesChangeNoState : Prop :=
  ∀ (s : State) (rest : List HostMove), s.live →
    (s.moves = .renderingEnabled :: rest → step s = .next
      { s with moves := rest, answer := some (.flag (s.regs.mask.getLsbD 3 || s.regs.mask.getLsbD 4)) }) ∧
    (s.moves = .irqIsAsserted :: rest → step s = .next
      { s with moves := rest, answer := some (.flag s.irqLine) }) ∧
    (s.moves = .irqClear :: rest → step s = .next { s with moves := rest, irqLine := false }) ∧
    (∀ sc d, s.moves = .readColour sc d :: rest → step s = .next
      { s with moves := rest, answer := some (.colour (s.colourAt sc d)) })
end

