-- ==== Sys2Proof/Laws/Bits.lean ====
section
/-! SUPPORT. The laws of the bit-field operations, each by its bits. -/

namespace Sys2Proof.Machine

/-- A slice write, bit by bit: the field's bits come from the value, the others stay. -/
theorem getLsbD_putField {w len : Nat} (x : BitVec w) (lo : Nat) (e : BitVec len) (i : Nat) :
    (putField x lo e).getLsbD i =
      if lo ≤ i ∧ i < lo + len ∧ i < w then e.getLsbD (i - lo) else x.getLsbD i := by
  unfold putField
  simp only [BitVec.getLsbD_or, BitVec.getLsbD_and, BitVec.getLsbD_not, BitVec.getLsbD_shiftLeft,
    BitVec.getLsbD_setWidth, BitVec.getLsbD_allOnes]
  by_cases hw : i < w
  · by_cases hlo : lo ≤ i
    · by_cases hlen : i < lo + len
      · have h1 : i - lo < len := by omega
        have h2 : i - lo < w := by omega
        simp [hw, hlo, hlen, h1, h2, Nat.not_lt.mpr hlo]
      · have h1 : ¬ i - lo < len := by omega
        have h2 : e.getLsbD (i - lo) = false := BitVec.getLsbD_of_ge e _ (by omega)
        simp [hw, hlo, hlen, h1, h2]
    · simp [hw, hlo, Nat.lt_of_not_le hlo]
  · have : x.getLsbD i = false := BitVec.getLsbD_of_ge x _ (by omega)
    simp [hw, this]

/-- The slice just written reads back. -/
theorem extractLsb'_putField_same {w len : Nat} (x : BitVec w) (lo : Nat) (e : BitVec len) (h : lo + len ≤ w) :
    (putField x lo e).extractLsb' lo len = e := by
  apply BitVec.eq_of_getLsbD_eq
  intro i hi
  simp only [BitVec.getLsbD_extractLsb', getLsbD_putField]
  rw [if_pos (by omega)]
  simp [hi]

/-- A slice that does not meet the written one stays. -/
theorem extractLsb'_putField_other {w len : Nat} (x : BitVec w) (lo : Nat) (e : BitVec len) {lo' len' : Nat}
    (h : lo' + len' ≤ lo ∨ lo + len ≤ lo') : (putField x lo e).extractLsb' lo' len' = x.extractLsb' lo' len' := by
  apply BitVec.eq_of_getLsbD_eq
  intro i hi
  simp only [BitVec.getLsbD_extractLsb', getLsbD_putField]
  rw [if_neg (by omega)]

/-- One bit turned over, bit by bit. -/
theorem getLsbD_flipBit {w : Nat} (x : BitVec w) (k i : Nat) (hk : k < w) :
    (flipBit x k).getLsbD i = if i = k then !x.getLsbD i else x.getLsbD i := by
  unfold flipBit
  simp only [BitVec.getLsbD_xor, BitVec.getLsbD_shiftLeft, BitVec.getLsbD_one]
  by_cases h : i = k
  · subst h
    have : 0 < w := by omega
    simp [hk, this]
  · by_cases hki : i < k
    · simp [h, hki]
    · have : ¬ i - k = 0 := by omega
      simp [h, this]

end Sys2Proof.Machine
end

