-- ==== Sys2Proof/Laws/Memory.lean ====
section
/-! SUPPORT. The laws of the sparse memories: a read after a write, and that every operation keeps the canonical form. -/

namespace Sys2Proof.Machine.Memory

variable {α : Type}

@[simp] theorem read?_nil (key : Nat) : read? ([] : Cells α) key = none := rfl

/-- A read of the written key gives what was written. -/
@[simp] theorem read?_write_same (m : Cells α) (key : Nat) (x : α) : read? (write m key x) key = some x := by
  induction m with
  | nil => simp [write, read?]
  | cons c rest ih =>
    obtain ⟨k, y⟩ := c
    unfold write
    split
    · simp [read?]
    · split
      · simp [read?]
      · simp [read?, *]

/-- A write leaves every other key alone. -/
theorem read?_write_other (m : Cells α) {key other : Nat} (h : other ≠ key) (x : α) :
    read? (write m key x) other = read? m other := by
  induction m with
  | nil => simp [write, read?, h]
  | cons c rest ih =>
    obtain ⟨k, y⟩ := c
    unfold write
    split
    · simp [read?, h]
    · split
      · rename_i hk; subst hk; simp [read?, h]
      · simp only [read?, ih]

theorem read?_write (m : Cells α) (key other : Nat) (x : α) :
    read? (write m key x) other = if other = key then some x else read? m other := by
  split
  · rename_i h; subst h; simp
  · exact read?_write_other m ‹_› x

/-- A write of a key above `low` keeps the keys rising from `low`. -/
theorem rising_write (m : Cells α) (low : Option Nat) (key : Nat) (x : α) (hm : rising low m = true)
    (hk : ∀ l, low = some l → l < key) : rising low (write m key x) = true := by
  induction m generalizing low with
  | nil => cases low <;> simp_all [write, rising]
  | cons c rest ih =>
    obtain ⟨k, y⟩ := c
    have hr : rising (some k) rest = true := by cases low <;> simp_all [rising]
    unfold write
    split
    · cases low <;> simp_all [rising]
    · split
      · rename_i hkk; subst hkk; cases low <;> simp_all [rising]
      · have := ih (some k) hr (by intro l hl; simp at hl; omega)
        cases low <;> simp_all [rising]

theorem all_write (m : Cells α) (size key : Nat) (x : α) (hm : (m.all fun c => c.1 < size) = true)
    (hk : key < size) : ((write m key x).all fun c => c.1 < size) = true := by
  induction m with
  | nil => simpa [write] using hk
  | cons c rest ih =>
    obtain ⟨k, y⟩ := c
    simp only [List.all_cons, Bool.and_eq_true] at hm
    have hkey : decide (key < size) = true := decide_eq_true hk
    unfold write
    split
    · simp only [List.all_cons, Bool.and_eq_true]; exact ⟨hkey, hm.1, hm.2⟩
    · split
      · simp only [List.all_cons, Bool.and_eq_true]; exact ⟨hkey, hm.2⟩
      · simp only [List.all_cons, Bool.and_eq_true]; exact ⟨hm.1, ih hm.2⟩

/-- A write inside the array keeps the canonical form. -/
theorem wf_write {size : Nat} {m : Cells α} (hm : wf size m = true) {key : Nat} (hk : key < size) (x : α) :
    wf size (write m key x) = true := by
  simp only [wf, Bool.and_eq_true] at hm ⊢
  exact ⟨rising_write m none key x hm.1 (by simp), all_write m size key x hm.2 hk⟩

@[simp] theorem wf_nil (size : Nat) : wf size ([] : Cells α) = true := rfl

/-- An array given whole is in canonical form. -/
theorem wf_ofArray (xs : List α) : wf xs.length (ofArray 0 xs) = true := by
  have hr : ∀ (xs : List α) (k : Nat) (low : Option Nat), (∀ l, low = some l → l < k) →
      rising low (ofArray k xs) = true := by
    intro xs
    induction xs with
    | nil => intro k low _; cases low <;> rfl
    | cons x rest ih =>
      intro k low h
      have := ih (k + 1) (some k) (by intro l hl; simp at hl; omega)
      cases low <;> simp_all [ofArray, rising]
  have ha : ∀ (xs : List α) (k n : Nat), k + xs.length ≤ n → ((ofArray k xs).all fun c => c.1 < n) = true := by
    intro xs
    induction xs with
    | nil => intros; rfl
    | cons x rest ih =>
      intro k n h
      simp only [List.length_cons] at h
      have := ih (k + 1) n (by omega)
      simp only [ofArray, List.all_cons, Bool.and_eq_true, decide_eq_true_eq]
      exact ⟨by omega, this⟩
  simp only [wf, Bool.and_eq_true]
  exact ⟨hr xs 0 none (by simp), ha xs 0 _ (by omega)⟩

/-- An array given whole reads back element by element. -/
theorem read?_ofArray (xs : List α) (k i : Nat) (h : k ≤ i) : read? (ofArray k xs) i = xs[i - k]? := by
  induction xs generalizing k with
  | nil => simp [ofArray]
  | cons x rest ih =>
    simp only [ofArray, read?]
    by_cases hi : i = k
    · subst hi; simp
    · rw [if_neg hi, ih (k + 1) (by omega)]
      have : i - k = (i - (k + 1)) + 1 := by omega
      rw [this, List.getElem?_cons_succ]

end Sys2Proof.Machine.Memory
end

