-- ==== Sys2Proof/Laws/State.lean ====
section
/-! SUPPORT. One lemma for each field of State and each named update: what the update leaves there. A proof rewrites with these and need not unfold an update. -/

namespace Sys2Proof.Machine

/-! ### `setOam` -/

@[simp] theorem State.setOam_cfg (s : State) (k : Nat) (b : Byte) : (s.setOam k b).cfg = s.cfg := rfl
@[simp] theorem State.setOam_regs (s : State) (k : Nat) (b : Byte) : (s.setOam k b).regs = s.regs := rfl
@[simp] theorem State.setOam_status (s : State) (k : Nat) (b : Byte) : (s.setOam k b).status = s.status := rfl
@[simp] theorem State.setOam_scroll (s : State) (k : Nat) (b : Byte) : (s.setOam k b).scroll = s.scroll := rfl
@[simp] theorem State.setOam_bg (s : State) (k : Nat) (b : Byte) : (s.setOam k b).bg = s.bg := rfl
@[simp] theorem State.setOam_spr (s : State) (k : Nat) (b : Byte) : (s.setOam k b).spr = s.spr := rfl
@[simp] theorem State.setOam_sup (s : State) (k : Nat) (b : Byte) : (s.setOam k b).sup = s.sup := rfl
@[simp] theorem State.setOam_time (s : State) (k : Nat) (b : Byte) : (s.setOam k b).time = s.time := rfl
@[simp] theorem State.setOam_oam (s : State) (k : Nat) (b : Byte) : (s.setOam k b).oam = Memory.write s.oam k b := rfl
@[simp] theorem State.setOam_vram (s : State) (k : Nat) (b : Byte) : (s.setOam k b).vram = s.vram := rfl
@[simp] theorem State.setOam_colorBuf (s : State) (k : Nat) (b : Byte) : (s.setOam k b).colorBuf = s.colorBuf := rfl
@[simp] theorem State.setOam_irqLine (s : State) (k : Nat) (b : Byte) : (s.setOam k b).irqLine = s.irqLine := rfl
@[simp] theorem State.setOam_fault (s : State) (k : Nat) (b : Byte) : (s.setOam k b).fault = s.fault := rfl
@[simp] theorem State.setOam_moves (s : State) (k : Nat) (b : Byte) : (s.setOam k b).moves = s.moves := rfl
@[simp] theorem State.setOam_answer (s : State) (k : Nat) (b : Byte) : (s.setOam k b).answer = s.answer := rfl

/-! ### `setVram` -/

@[simp] theorem State.setVram_cfg (s : State) (k : Nat) (b : Byte) : (s.setVram k b).cfg = s.cfg := rfl
@[simp] theorem State.setVram_regs (s : State) (k : Nat) (b : Byte) : (s.setVram k b).regs = s.regs := rfl
@[simp] theorem State.setVram_status (s : State) (k : Nat) (b : Byte) : (s.setVram k b).status = s.status := rfl
@[simp] theorem State.setVram_scroll (s : State) (k : Nat) (b : Byte) : (s.setVram k b).scroll = s.scroll := rfl
@[simp] theorem State.setVram_bg (s : State) (k : Nat) (b : Byte) : (s.setVram k b).bg = s.bg := rfl
@[simp] theorem State.setVram_spr (s : State) (k : Nat) (b : Byte) : (s.setVram k b).spr = s.spr := rfl
@[simp] theorem State.setVram_sup (s : State) (k : Nat) (b : Byte) : (s.setVram k b).sup = s.sup := rfl
@[simp] theorem State.setVram_time (s : State) (k : Nat) (b : Byte) : (s.setVram k b).time = s.time := rfl
@[simp] theorem State.setVram_oam (s : State) (k : Nat) (b : Byte) : (s.setVram k b).oam = s.oam := rfl
@[simp] theorem State.setVram_vram (s : State) (k : Nat) (b : Byte) : (s.setVram k b).vram = Memory.write s.vram k b := rfl
@[simp] theorem State.setVram_colorBuf (s : State) (k : Nat) (b : Byte) : (s.setVram k b).colorBuf = s.colorBuf := rfl
@[simp] theorem State.setVram_irqLine (s : State) (k : Nat) (b : Byte) : (s.setVram k b).irqLine = s.irqLine := rfl
@[simp] theorem State.setVram_fault (s : State) (k : Nat) (b : Byte) : (s.setVram k b).fault = s.fault := rfl
@[simp] theorem State.setVram_moves (s : State) (k : Nat) (b : Byte) : (s.setVram k b).moves = s.moves := rfl
@[simp] theorem State.setVram_answer (s : State) (k : Nat) (b : Byte) : (s.setVram k b).answer = s.answer := rfl

/-! ### `setColour` -/

@[simp] theorem State.setColour_cfg (s : State) (sc : Fin 262) (d : Fin 341) (c : Rgb) : (s.setColour sc d c).cfg = s.cfg := rfl
@[simp] theorem State.setColour_regs (s : State) (sc : Fin 262) (d : Fin 341) (c : Rgb) : (s.setColour sc d c).regs = s.regs := rfl
@[simp] theorem State.setColour_status (s : State) (sc : Fin 262) (d : Fin 341) (c : Rgb) : (s.setColour sc d c).status = s.status := rfl
@[simp] theorem State.setColour_scroll (s : State) (sc : Fin 262) (d : Fin 341) (c : Rgb) : (s.setColour sc d c).scroll = s.scroll := rfl
@[simp] theorem State.setColour_bg (s : State) (sc : Fin 262) (d : Fin 341) (c : Rgb) : (s.setColour sc d c).bg = s.bg := rfl
@[simp] theorem State.setColour_spr (s : State) (sc : Fin 262) (d : Fin 341) (c : Rgb) : (s.setColour sc d c).spr = s.spr := rfl
@[simp] theorem State.setColour_sup (s : State) (sc : Fin 262) (d : Fin 341) (c : Rgb) : (s.setColour sc d c).sup = s.sup := rfl
@[simp] theorem State.setColour_time (s : State) (sc : Fin 262) (d : Fin 341) (c : Rgb) : (s.setColour sc d c).time = s.time := rfl
@[simp] theorem State.setColour_oam (s : State) (sc : Fin 262) (d : Fin 341) (c : Rgb) : (s.setColour sc d c).oam = s.oam := rfl
@[simp] theorem State.setColour_vram (s : State) (sc : Fin 262) (d : Fin 341) (c : Rgb) : (s.setColour sc d c).vram = s.vram := rfl
@[simp] theorem State.setColour_colorBuf (s : State) (sc : Fin 262) (d : Fin 341) (c : Rgb) : (s.setColour sc d c).colorBuf = Memory.write s.colorBuf (colourCell sc d) c := rfl
@[simp] theorem State.setColour_irqLine (s : State) (sc : Fin 262) (d : Fin 341) (c : Rgb) : (s.setColour sc d c).irqLine = s.irqLine := rfl
@[simp] theorem State.setColour_fault (s : State) (sc : Fin 262) (d : Fin 341) (c : Rgb) : (s.setColour sc d c).fault = s.fault := rfl
@[simp] theorem State.setColour_moves (s : State) (sc : Fin 262) (d : Fin 341) (c : Rgb) : (s.setColour sc d c).moves = s.moves := rfl
@[simp] theorem State.setColour_answer (s : State) (sc : Fin 262) (d : Fin 341) (c : Rgb) : (s.setColour sc d c).answer = s.answer := rfl

/-! ### `storePixel`: what it leaves in `colorBuf` is `colourAt_storePixel` in Laws/Ops.lean -/

@[simp] theorem State.storePixel_cfg (s : State) (c : Rgb) : (s.storePixel c).cfg = s.cfg := by
  unfold State.storePixel; split <;> rfl
@[simp] theorem State.storePixel_regs (s : State) (c : Rgb) : (s.storePixel c).regs = s.regs := by
  unfold State.storePixel; split <;> rfl
@[simp] theorem State.storePixel_status (s : State) (c : Rgb) : (s.storePixel c).status = s.status := by
  unfold State.storePixel; split <;> rfl
@[simp] theorem State.storePixel_scroll (s : State) (c : Rgb) : (s.storePixel c).scroll = s.scroll := by
  unfold State.storePixel; split <;> rfl
@[simp] theorem State.storePixel_bg (s : State) (c : Rgb) : (s.storePixel c).bg = s.bg := by
  unfold State.storePixel; split <;> rfl
@[simp] theorem State.storePixel_spr (s : State) (c : Rgb) : (s.storePixel c).spr = s.spr := by
  unfold State.storePixel; split <;> rfl
@[simp] theorem State.storePixel_sup (s : State) (c : Rgb) : (s.storePixel c).sup = s.sup := by
  unfold State.storePixel; split <;> rfl
@[simp] theorem State.storePixel_time (s : State) (c : Rgb) : (s.storePixel c).time = s.time := by
  unfold State.storePixel; split <;> rfl
@[simp] theorem State.storePixel_oam (s : State) (c : Rgb) : (s.storePixel c).oam = s.oam := by
  unfold State.storePixel; split <;> rfl
@[simp] theorem State.storePixel_vram (s : State) (c : Rgb) : (s.storePixel c).vram = s.vram := by
  unfold State.storePixel; split <;> rfl
@[simp] theorem State.storePixel_irqLine (s : State) (c : Rgb) : (s.storePixel c).irqLine = s.irqLine := by
  unfold State.storePixel; split <;> rfl
@[simp] theorem State.storePixel_fault (s : State) (c : Rgb) : (s.storePixel c).fault = s.fault := by
  unfold State.storePixel; split <;> rfl
@[simp] theorem State.storePixel_moves (s : State) (c : Rgb) : (s.storePixel c).moves = s.moves := by
  unfold State.storePixel; split <;> rfl
@[simp] theorem State.storePixel_answer (s : State) (c : Rgb) : (s.storePixel c).answer = s.answer := by
  unfold State.storePixel; split <;> rfl

/-! ### `irqAssert` -/

@[simp] theorem State.irqAssert_cfg (s : State) : (s.irqAssert).cfg = s.cfg := rfl
@[simp] theorem State.irqAssert_regs (s : State) : (s.irqAssert).regs = s.regs := rfl
@[simp] theorem State.irqAssert_status (s : State) : (s.irqAssert).status = s.status := rfl
@[simp] theorem State.irqAssert_scroll (s : State) : (s.irqAssert).scroll = s.scroll := rfl
@[simp] theorem State.irqAssert_bg (s : State) : (s.irqAssert).bg = s.bg := rfl
@[simp] theorem State.irqAssert_spr (s : State) : (s.irqAssert).spr = s.spr := rfl
@[simp] theorem State.irqAssert_sup (s : State) : (s.irqAssert).sup = s.sup := rfl
@[simp] theorem State.irqAssert_time (s : State) : (s.irqAssert).time = s.time := rfl
@[simp] theorem State.irqAssert_oam (s : State) : (s.irqAssert).oam = s.oam := rfl
@[simp] theorem State.irqAssert_vram (s : State) : (s.irqAssert).vram = s.vram := rfl
@[simp] theorem State.irqAssert_colorBuf (s : State) : (s.irqAssert).colorBuf = s.colorBuf := rfl
@[simp] theorem State.irqAssert_irqLine (s : State) : (s.irqAssert).irqLine = true := rfl
@[simp] theorem State.irqAssert_fault (s : State) : (s.irqAssert).fault = s.fault := rfl
@[simp] theorem State.irqAssert_moves (s : State) : (s.irqAssert).moves = s.moves := rfl
@[simp] theorem State.irqAssert_answer (s : State) : (s.irqAssert).answer = s.answer := rfl

/-! ### `irqClear` -/

@[simp] theorem State.irqClear_cfg (s : State) : (s.irqClear).cfg = s.cfg := rfl
@[simp] theorem State.irqClear_regs (s : State) : (s.irqClear).regs = s.regs := rfl
@[simp] theorem State.irqClear_status (s : State) : (s.irqClear).status = s.status := rfl
@[simp] theorem State.irqClear_scroll (s : State) : (s.irqClear).scroll = s.scroll := rfl
@[simp] theorem State.irqClear_bg (s : State) : (s.irqClear).bg = s.bg := rfl
@[simp] theorem State.irqClear_spr (s : State) : (s.irqClear).spr = s.spr := rfl
@[simp] theorem State.irqClear_sup (s : State) : (s.irqClear).sup = s.sup := rfl
@[simp] theorem State.irqClear_time (s : State) : (s.irqClear).time = s.time := rfl
@[simp] theorem State.irqClear_oam (s : State) : (s.irqClear).oam = s.oam := rfl
@[simp] theorem State.irqClear_vram (s : State) : (s.irqClear).vram = s.vram := rfl
@[simp] theorem State.irqClear_colorBuf (s : State) : (s.irqClear).colorBuf = s.colorBuf := rfl
@[simp] theorem State.irqClear_irqLine (s : State) : (s.irqClear).irqLine = false := rfl
@[simp] theorem State.irqClear_fault (s : State) : (s.irqClear).fault = s.fault := rfl
@[simp] theorem State.irqClear_moves (s : State) : (s.irqClear).moves = s.moves := rfl
@[simp] theorem State.irqClear_answer (s : State) : (s.irqClear).answer = s.answer := rfl

/-! ### `driveBus` -/

@[simp] theorem State.driveBus_cfg (s : State) (val : Byte) : (s.driveBus val).cfg = s.cfg := rfl
@[simp] theorem State.driveBus_regs (s : State) (val : Byte) : (s.driveBus val).regs = { s.regs with ioBus := val } := rfl
@[simp] theorem State.driveBus_status (s : State) (val : Byte) : (s.driveBus val).status = s.status := rfl
@[simp] theorem State.driveBus_scroll (s : State) (val : Byte) : (s.driveBus val).scroll = s.scroll := rfl
@[simp] theorem State.driveBus_bg (s : State) (val : Byte) : (s.driveBus val).bg = s.bg := rfl
@[simp] theorem State.driveBus_spr (s : State) (val : Byte) : (s.driveBus val).spr = s.spr := rfl
@[simp] theorem State.driveBus_sup (s : State) (val : Byte) : (s.driveBus val).sup = s.sup := rfl
@[simp] theorem State.driveBus_time (s : State) (val : Byte) : (s.driveBus val).time = s.time := rfl
@[simp] theorem State.driveBus_oam (s : State) (val : Byte) : (s.driveBus val).oam = s.oam := rfl
@[simp] theorem State.driveBus_vram (s : State) (val : Byte) : (s.driveBus val).vram = s.vram := rfl
@[simp] theorem State.driveBus_colorBuf (s : State) (val : Byte) : (s.driveBus val).colorBuf = s.colorBuf := rfl
@[simp] theorem State.driveBus_irqLine (s : State) (val : Byte) : (s.driveBus val).irqLine = s.irqLine := rfl
@[simp] theorem State.driveBus_fault (s : State) (val : Byte) : (s.driveBus val).fault = s.fault := rfl
@[simp] theorem State.driveBus_moves (s : State) (val : Byte) : (s.driveBus val).moves = s.moves := rfl
@[simp] theorem State.driveBus_answer (s : State) (val : Byte) : (s.driveBus val).answer = s.answer := rfl

/-! ### `answerByte` -/

@[simp] theorem State.answerByte_cfg (s : State) (r : Byte) : (s.answerByte r).cfg = s.cfg := rfl
@[simp] theorem State.answerByte_regs (s : State) (r : Byte) : (s.answerByte r).regs = s.regs := rfl
@[simp] theorem State.answerByte_status (s : State) (r : Byte) : (s.answerByte r).status = s.status := rfl
@[simp] theorem State.answerByte_scroll (s : State) (r : Byte) : (s.answerByte r).scroll = s.scroll := rfl
@[simp] theorem State.answerByte_bg (s : State) (r : Byte) : (s.answerByte r).bg = s.bg := rfl
@[simp] theorem State.answerByte_spr (s : State) (r : Byte) : (s.answerByte r).spr = s.spr := rfl
@[simp] theorem State.answerByte_sup (s : State) (r : Byte) : (s.answerByte r).sup = s.sup := rfl
@[simp] theorem State.answerByte_time (s : State) (r : Byte) : (s.answerByte r).time = s.time := rfl
@[simp] theorem State.answerByte_oam (s : State) (r : Byte) : (s.answerByte r).oam = s.oam := rfl
@[simp] theorem State.answerByte_vram (s : State) (r : Byte) : (s.answerByte r).vram = s.vram := rfl
@[simp] theorem State.answerByte_colorBuf (s : State) (r : Byte) : (s.answerByte r).colorBuf = s.colorBuf := rfl
@[simp] theorem State.answerByte_irqLine (s : State) (r : Byte) : (s.answerByte r).irqLine = s.irqLine := rfl
@[simp] theorem State.answerByte_fault (s : State) (r : Byte) : (s.answerByte r).fault = s.fault := rfl
@[simp] theorem State.answerByte_moves (s : State) (r : Byte) : (s.answerByte r).moves = s.moves := rfl
@[simp] theorem State.answerByte_answer (s : State) (r : Byte) : (s.answerByte r).answer = some (.byte r) := rfl

/-! ### `answerWith` -/

@[simp] theorem State.answerWith_cfg (s : State) (a : Answer) : (s.answerWith a).cfg = s.cfg := rfl
@[simp] theorem State.answerWith_regs (s : State) (a : Answer) : (s.answerWith a).regs = s.regs := rfl
@[simp] theorem State.answerWith_status (s : State) (a : Answer) : (s.answerWith a).status = s.status := rfl
@[simp] theorem State.answerWith_scroll (s : State) (a : Answer) : (s.answerWith a).scroll = s.scroll := rfl
@[simp] theorem State.answerWith_bg (s : State) (a : Answer) : (s.answerWith a).bg = s.bg := rfl
@[simp] theorem State.answerWith_spr (s : State) (a : Answer) : (s.answerWith a).spr = s.spr := rfl
@[simp] theorem State.answerWith_sup (s : State) (a : Answer) : (s.answerWith a).sup = s.sup := rfl
@[simp] theorem State.answerWith_time (s : State) (a : Answer) : (s.answerWith a).time = s.time := rfl
@[simp] theorem State.answerWith_oam (s : State) (a : Answer) : (s.answerWith a).oam = s.oam := rfl
@[simp] theorem State.answerWith_vram (s : State) (a : Answer) : (s.answerWith a).vram = s.vram := rfl
@[simp] theorem State.answerWith_colorBuf (s : State) (a : Answer) : (s.answerWith a).colorBuf = s.colorBuf := rfl
@[simp] theorem State.answerWith_irqLine (s : State) (a : Answer) : (s.answerWith a).irqLine = s.irqLine := rfl
@[simp] theorem State.answerWith_fault (s : State) (a : Answer) : (s.answerWith a).fault = s.fault := rfl
@[simp] theorem State.answerWith_moves (s : State) (a : Answer) : (s.answerWith a).moves = s.moves := rfl
@[simp] theorem State.answerWith_answer (s : State) (a : Answer) : (s.answerWith a).answer = some a := rfl

/-! ### `returnByte` -/

@[simp] theorem State.returnByte_cfg (s : State) (r : Byte) : (s.returnByte r).cfg = s.cfg := rfl
@[simp] theorem State.returnByte_regs (s : State) (r : Byte) : (s.returnByte r).regs = { s.regs with ioBus := r } := rfl
@[simp] theorem State.returnByte_status (s : State) (r : Byte) : (s.returnByte r).status = s.status := rfl
@[simp] theorem State.returnByte_scroll (s : State) (r : Byte) : (s.returnByte r).scroll = s.scroll := rfl
@[simp] theorem State.returnByte_bg (s : State) (r : Byte) : (s.returnByte r).bg = s.bg := rfl
@[simp] theorem State.returnByte_spr (s : State) (r : Byte) : (s.returnByte r).spr = s.spr := rfl
@[simp] theorem State.returnByte_sup (s : State) (r : Byte) : (s.returnByte r).sup = s.sup := rfl
@[simp] theorem State.returnByte_time (s : State) (r : Byte) : (s.returnByte r).time = s.time := rfl
@[simp] theorem State.returnByte_oam (s : State) (r : Byte) : (s.returnByte r).oam = s.oam := rfl
@[simp] theorem State.returnByte_vram (s : State) (r : Byte) : (s.returnByte r).vram = s.vram := rfl
@[simp] theorem State.returnByte_colorBuf (s : State) (r : Byte) : (s.returnByte r).colorBuf = s.colorBuf := rfl
@[simp] theorem State.returnByte_irqLine (s : State) (r : Byte) : (s.returnByte r).irqLine = s.irqLine := rfl
@[simp] theorem State.returnByte_fault (s : State) (r : Byte) : (s.returnByte r).fault = s.fault := rfl
@[simp] theorem State.returnByte_moves (s : State) (r : Byte) : (s.returnByte r).moves = s.moves := rfl
@[simp] theorem State.returnByte_answer (s : State) (r : Byte) : (s.returnByte r).answer = some (.byte r) := rfl

/-! ### `stepDataAddr` -/

@[simp] theorem State.stepDataAddr_cfg (s : State) : (s.stepDataAddr).cfg = s.cfg := rfl
@[simp] theorem State.stepDataAddr_regs (s : State) : (s.stepDataAddr).regs = s.regs := rfl
@[simp] theorem State.stepDataAddr_status (s : State) : (s.stepDataAddr).status = s.status := rfl
@[simp] theorem State.stepDataAddr_scroll (s : State) : (s.stepDataAddr).scroll = { s.scroll with v := incDataAddr s.regs.ctrl s.scroll.v } := rfl
@[simp] theorem State.stepDataAddr_bg (s : State) : (s.stepDataAddr).bg = s.bg := rfl
@[simp] theorem State.stepDataAddr_spr (s : State) : (s.stepDataAddr).spr = s.spr := rfl
@[simp] theorem State.stepDataAddr_sup (s : State) : (s.stepDataAddr).sup = s.sup := rfl
@[simp] theorem State.stepDataAddr_time (s : State) : (s.stepDataAddr).time = s.time := rfl
@[simp] theorem State.stepDataAddr_oam (s : State) : (s.stepDataAddr).oam = s.oam := rfl
@[simp] theorem State.stepDataAddr_vram (s : State) : (s.stepDataAddr).vram = s.vram := rfl
@[simp] theorem State.stepDataAddr_colorBuf (s : State) : (s.stepDataAddr).colorBuf = s.colorBuf := rfl
@[simp] theorem State.stepDataAddr_irqLine (s : State) : (s.stepDataAddr).irqLine = s.irqLine := rfl
@[simp] theorem State.stepDataAddr_fault (s : State) : (s.stepDataAddr).fault = s.fault := rfl
@[simp] theorem State.stepDataAddr_moves (s : State) : (s.stepDataAddr).moves = s.moves := rfl
@[simp] theorem State.stepDataAddr_answer (s : State) : (s.stepDataAddr).answer = s.answer := rfl

/-! ### `markHit` -/

@[simp] theorem State.markHit_cfg (s : State) (h : Bool) : (s.markHit h).cfg = s.cfg := rfl
@[simp] theorem State.markHit_regs (s : State) (h : Bool) : (s.markHit h).regs = s.regs := rfl
@[simp] theorem State.markHit_status (s : State) (h : Bool) : (s.markHit h).status = { s.status with spr0Hit := s.status.spr0Hit || h } := rfl
@[simp] theorem State.markHit_scroll (s : State) (h : Bool) : (s.markHit h).scroll = s.scroll := rfl
@[simp] theorem State.markHit_bg (s : State) (h : Bool) : (s.markHit h).bg = s.bg := rfl
@[simp] theorem State.markHit_spr (s : State) (h : Bool) : (s.markHit h).spr = s.spr := rfl
@[simp] theorem State.markHit_sup (s : State) (h : Bool) : (s.markHit h).sup = s.sup := rfl
@[simp] theorem State.markHit_time (s : State) (h : Bool) : (s.markHit h).time = s.time := rfl
@[simp] theorem State.markHit_oam (s : State) (h : Bool) : (s.markHit h).oam = s.oam := rfl
@[simp] theorem State.markHit_vram (s : State) (h : Bool) : (s.markHit h).vram = s.vram := rfl
@[simp] theorem State.markHit_colorBuf (s : State) (h : Bool) : (s.markHit h).colorBuf = s.colorBuf := rfl
@[simp] theorem State.markHit_irqLine (s : State) (h : Bool) : (s.markHit h).irqLine = s.irqLine := rfl
@[simp] theorem State.markHit_fault (s : State) (h : Bool) : (s.markHit h).fault = s.fault := rfl
@[simp] theorem State.markHit_moves (s : State) (h : Bool) : (s.markHit h).moves = s.moves := rfl
@[simp] theorem State.markHit_answer (s : State) (h : Bool) : (s.markHit h).answer = s.answer := rfl

/-! ### `tick` -/

@[simp] theorem State.tick_cfg (s : State) : s.tick.cfg = s.cfg := rfl
@[simp] theorem State.tick_regs (s : State) : s.tick.regs = s.regs := rfl
@[simp] theorem State.tick_status (s : State) : s.tick.status = s.status := rfl
@[simp] theorem State.tick_scroll (s : State) : s.tick.scroll = s.scroll := rfl
@[simp] theorem State.tick_bg (s : State) : s.tick.bg = s.bg := rfl
@[simp] theorem State.tick_spr (s : State) : s.tick.spr = s.spr := rfl
@[simp] theorem State.tick_sup (s : State) : s.tick.sup = s.sup := rfl
@[simp] theorem State.tick_oam (s : State) : s.tick.oam = s.oam := rfl
@[simp] theorem State.tick_vram (s : State) : s.tick.vram = s.vram := rfl
@[simp] theorem State.tick_colorBuf (s : State) : s.tick.colorBuf = s.colorBuf := rfl
@[simp] theorem State.tick_irqLine (s : State) : s.tick.irqLine = s.irqLine := rfl
@[simp] theorem State.tick_fault (s : State) : s.tick.fault = s.fault := rfl
@[simp] theorem State.tick_moves (s : State) : s.tick.moves = s.moves := rfl
@[simp] theorem State.tick_answer (s : State) : s.tick.answer = s.answer := rfl
@[simp] theorem State.tick_cycles (s : State) : s.tick.time.cycles = s.time.cycles + 1 := rfl

/-! ### `raise`: only the fault record can change -/

@[simp] theorem State.raise_cfg (s : State) (f : FaultInfo) : (s.raise f).cfg = s.cfg := by
  unfold State.raise; split <;> rfl
@[simp] theorem State.raise_regs (s : State) (f : FaultInfo) : (s.raise f).regs = s.regs := by
  unfold State.raise; split <;> rfl
@[simp] theorem State.raise_status (s : State) (f : FaultInfo) : (s.raise f).status = s.status := by
  unfold State.raise; split <;> rfl
@[simp] theorem State.raise_scroll (s : State) (f : FaultInfo) : (s.raise f).scroll = s.scroll := by
  unfold State.raise; split <;> rfl
@[simp] theorem State.raise_bg (s : State) (f : FaultInfo) : (s.raise f).bg = s.bg := by
  unfold State.raise; split <;> rfl
@[simp] theorem State.raise_spr (s : State) (f : FaultInfo) : (s.raise f).spr = s.spr := by
  unfold State.raise; split <;> rfl
@[simp] theorem State.raise_sup (s : State) (f : FaultInfo) : (s.raise f).sup = s.sup := by
  unfold State.raise; split <;> rfl
@[simp] theorem State.raise_time (s : State) (f : FaultInfo) : (s.raise f).time = s.time := by
  unfold State.raise; split <;> rfl
@[simp] theorem State.raise_oam (s : State) (f : FaultInfo) : (s.raise f).oam = s.oam := by
  unfold State.raise; split <;> rfl
@[simp] theorem State.raise_vram (s : State) (f : FaultInfo) : (s.raise f).vram = s.vram := by
  unfold State.raise; split <;> rfl
@[simp] theorem State.raise_colorBuf (s : State) (f : FaultInfo) : (s.raise f).colorBuf = s.colorBuf := by
  unfold State.raise; split <;> rfl
@[simp] theorem State.raise_irqLine (s : State) (f : FaultInfo) : (s.raise f).irqLine = s.irqLine := by
  unfold State.raise; split <;> rfl
@[simp] theorem State.raise_moves (s : State) (f : FaultInfo) : (s.raise f).moves = s.moves := by
  unfold State.raise; split <;> rfl
@[simp] theorem State.raise_answer (s : State) (f : FaultInfo) : (s.raise f).answer = s.answer := by
  unfold State.raise; split <;> rfl
theorem State.raise_of_none {s : State} (h : s.fault = none) (f : FaultInfo) :
    s.raise f = { s with fault := some f } := by
  unfold State.raise; rw [h]

theorem State.raise_of_some {s : State} {g : FaultInfo} (h : s.fault = some g) (f : FaultInfo) : s.raise f = s := by
  unfold State.raise; rw [h]

/-! ### `resetEngine`: what `Reset` leaves unchanged -/

@[simp] theorem resetEngine_cfg (s : State) : (resetEngine s).cfg = s.cfg := rfl
@[simp] theorem resetEngine_oam (s : State) : (resetEngine s).oam = s.oam := rfl
@[simp] theorem resetEngine_vram (s : State) : (resetEngine s).vram = s.vram := rfl
@[simp] theorem resetEngine_colorBuf (s : State) : (resetEngine s).colorBuf = s.colorBuf := rfl
@[simp] theorem resetEngine_irqLine (s : State) : (resetEngine s).irqLine = s.irqLine := rfl
@[simp] theorem resetEngine_fault (s : State) : (resetEngine s).fault = s.fault := rfl
@[simp] theorem resetEngine_moves (s : State) : (resetEngine s).moves = s.moves := rfl
@[simp] theorem resetEngine_answer (s : State) : (resetEngine s).answer = s.answer := rfl

end Sys2Proof.Machine
end

