-- ==== Sys2Proof/Laws/Ops.lean ====
section
/-! SUPPORT. One lemma for each shared operation, saying all it can do: the bus and the mapper, the gate, an operation while no fault is recorded. -/

namespace Sys2Proof.Machine

/-! ### Resolve -/

/-- A palette slot is one of the 32 (20_memory.md R73). -/
theorem palSlot_lt (a : Addr) : palSlot a < 32 := by
  have h : (a &&& 0x1F).toNat ≤ 31 := by
    rw [BitVec.toNat_and]; exact Nat.and_le_right
  unfold palSlot
  simp only
  split <;> omega

/-- A nametable index is below 0x800 (20_memory.md R74). -/
theorem ntIndex_lt (m : Mirroring) (a : Addr) : ntIndex m a < 0x800 := by
  cases m
  · simp only [ntIndex]
    have : (((a - 0x2000) &&& 0x0FFF) &&& 0x07FF : Addr).toNat ≤ 0x07FF := by
      rw [BitVec.toNat_and]; exact Nat.and_le_right
    omega
  · simp only [ntIndex, BitVec.toNat_or, BitVec.toNat_and]
    apply Nat.or_lt_two_pow (n := 11)
    · exact Nat.lt_of_le_of_lt Nat.and_le_right (by decide)
    · exact Nat.lt_of_le_of_lt Nat.and_le_right (by decide)

/-- The three regions of `Resolve` (20_memory.md R72), with the bound of each index (R78). -/
theorem resolve_cases (m : Mirroring) (a : Addr) :
    (0x3F00 ≤ a.toNat ∧ resolve m a = .cell (0x800 + palSlot a)) ∨
    (0x2000 ≤ a.toNat ∧ a.toNat < 0x3F00 ∧ resolve m a = .cell (ntIndex m a)) ∨
    (a.toNat < 0x2000 ∧ resolve m a = .mapper a) := by
  unfold resolve
  split
  · exact .inl ⟨‹_›, rfl⟩
  · split
    · exact .inr (.inl ⟨‹_›, by omega, rfl⟩)
    · exact .inr (.inr ⟨by omega, rfl⟩)

theorem resolve_cell_lt {m : Mirroring} {a : Addr} {k : Nat} (h : resolve m a = .cell k) : k < 2080 := by
  obtain ⟨_, h'⟩ | ⟨_, _, h'⟩ | ⟨_, h'⟩ := resolve_cases m a
  · rw [h'] at h; cases h; have := palSlot_lt a; omega
  · rw [h'] at h; cases h; have := ntIndex_lt m a; omega
  · rw [h'] at h; cases h

/-! ### The bus -/

/-- A bus read never faults, and gives what the address map says (20_memory.md R76, R80). -/
@[simp] theorem busRead_eq (s : State) (a : Addr) : s.busRead a = .ok (s.byteOnBus a) := by
  unfold State.busRead State.byteOnBus
  obtain ⟨h1, h'⟩ | ⟨h1, h2, h'⟩ | ⟨h1, h'⟩ := resolve_cases s.cfg.mirroring a <;> rw [h']
  · simp [h1]
  · simp [h1, Nat.not_le.mpr h2]
  · have h3 : ¬ 0x3F00 ≤ a.toNat := by omega
    have h4 : ¬ 0x2000 ≤ a.toNat := by omega
    simp [h3, h4, State.mapperReadPpu, translatePpu, h1]

/-- An operation on a bus byte goes on with the byte. -/
@[simp] theorem withBusByte_eq (s : State) (a : Addr) (k : Byte → State) : s.withBusByte a k = k (s.byteOnBus a) := by
  simp [State.withBusByte]

/-- A bus write stores in the resolved cell, or is refused below 0x2000 (20_memory.md R77, 45_mapper.md R337). -/
theorem busWrite_cases (s : State) (a : Addr) (b : Byte) :
    (∃ k, k < 2080 ∧ resolve s.cfg.mirroring a = .cell k ∧ 0x2000 ≤ a.toNat ∧ s.busWrite a b = .ok (s.setVram k b)) ∨
    (a.toNat < 0x2000 ∧ s.busWrite a b = .error (.illegalCartridgeWrite a)) := by
  unfold State.busWrite
  obtain ⟨h1, h'⟩ | ⟨h1, h2, h'⟩ | ⟨h1, h'⟩ := resolve_cases s.cfg.mirroring a
  · exact .inl ⟨_, resolve_cell_lt h', h', by omega, by rw [h']⟩
  · exact .inl ⟨_, resolve_cell_lt h', h', h1, by rw [h']⟩
  · exact .inr ⟨h1, by rw [h']; rfl⟩

/-! ### What is shown on the bus depends on the configuration and `vram` alone -/

theorem byteOnBus_congr {s t : State} (hc : t.cfg = s.cfg) (hv : t.vram = s.vram) (a : Addr) :
    t.byteOnBus a = s.byteOnBus a := by
  unfold State.byteOnBus State.vramAt State.chrAt
  rw [hc, hv]

theorem oamAt_congr {s t : State} (hc : t.cfg = s.cfg) (ho : t.oam = s.oam) (k : Nat) : t.oamAt k = s.oamAt k := by
  unfold State.oamAt
  rw [hc, ho]

@[simp] theorem oamAt_setOam_same (s : State) (k : Nat) (b : Byte) : (s.setOam k b).oamAt k = b := by
  simp [State.oamAt]

theorem oamAt_setOam_other (s : State) {k j : Nat} (h : j ≠ k) (b : Byte) : (s.setOam k b).oamAt j = s.oamAt j := by
  simp [State.oamAt, Memory.read?_write_other _ h]

@[simp] theorem vramAt_setVram_same (s : State) (k : Nat) (b : Byte) : (s.setVram k b).vramAt k = b := by
  simp [State.vramAt]

theorem vramAt_setVram_other (s : State) {k j : Nat} (h : j ≠ k) (b : Byte) : (s.setVram k b).vramAt j = s.vramAt j := by
  simp [State.vramAt, Memory.read?_write_other _ h]

@[simp] theorem colourAt_setColour_same (s : State) (sc : Fin 262) (d : Fin 341) (c : Rgb) :
    (s.setColour sc d c).colourAt sc d = c := by
  simp [State.colourAt]

/-- Two positions are two cells. -/
theorem colourCell_inj {sc sc' : Fin 262} {d d' : Fin 341} (h : colourCell sc d = colourCell sc' d') :
    sc = sc' ∧ d = d' := by
  unfold colourCell at h
  constructor <;> ext <;> omega

theorem colourAt_setColour_other (s : State) {sc sc' : Fin 262} {d d' : Fin 341} (h : (sc', d') ≠ (sc, d)) (c : Rgb) :
    (s.setColour sc d c).colourAt sc' d' = s.colourAt sc' d' := by
  have hk : colourCell sc' d' ≠ colourCell sc d := fun e => h (by
    obtain ⟨h1, h2⟩ := colourCell_inj e; rw [h1, h2])
  simp [State.colourAt, Memory.read?_write_other _ hk]

theorem colourCell_lt (sc : Fin 262) (d : Fin 341) : colourCell sc d < 262 * 341 := by
  unfold colourCell; omega

/-- What the pixel step's store does: the cell of the position takes the colour if it is in the visible window, and every
other cell of `color_buf` keeps its content (10_state.md R44). -/
theorem colourAt_storePixel (s : State) (c : Rgb) (sc : Fin 262) (d : Fin 341) :
    (s.storePixel c).colourAt sc d =
      if (sc, d) = (s.time.scanline, s.time.dot) ∧ inVisibleWindow sc d = true then c else s.colourAt sc d := by
  unfold State.storePixel
  by_cases hp : (sc, d) = (s.time.scanline, s.time.dot)
  · obtain ⟨rfl, rfl⟩ := Prod.mk.inj hp
    by_cases hw : inVisibleWindow s.time.scanline s.time.dot = true <;> simp [hw]
  · simp only [hp, false_and, if_false]
    split
    · exact colourAt_setColour_other s hp c
    · rfl

/-- The pixel step's store writes `color_buf` and nothing else. -/
theorem storePixel_eq (s : State) (c : Rgb) : s.storePixel c = { s with colorBuf := (s.storePixel c).colorBuf } := by
  unfold State.storePixel
  split <;> rfl

theorem storePixel_of_visible {s : State} (h : inVisibleWindow s.time.scanline s.time.dot = true) (c : Rgb) :
    s.storePixel c = s.setColour s.time.scanline s.time.dot c := by
  simp [State.storePixel, h]

theorem storePixel_of_hidden {s : State} (h : inVisibleWindow s.time.scanline s.time.dot = false) (c : Rgb) :
    s.storePixel c = s := by
  simp [State.storePixel, h]

/-! ### Operations while no fault is recorded -/

@[simp] theorem whileLive_of_live {s : State} (h : s.fault = none) (op : State → State) :
    whileLive op s = .next (op s) := by
  unfold whileLive; rw [h]

theorem whileLive_of_fault {s : State} {f : FaultInfo} (h : s.fault = some f) (op : State → State) :
    whileLive op s = .fault (.halted f) := by
  unfold whileLive; rw [h]

/-- An operation that takes a next state did so from a state without a fault. -/
theorem whileLive_next {op : State → State} {s t : State} (h : whileLive op s = .next t) :
    s.fault = none ∧ t = op s := by
  unfold whileLive at h
  split at h
  · cases h
  · cases h; exact ⟨‹_›, rfl⟩

@[simp] theorem event_of_live {s : State} (h : s.fault = none) (op : State → State) : event op s = .next (op s) :=
  whileLive_of_live h op

@[simp] theorem gatedEvent_of_live {s : State} (h : s.fault = none) (op : State → State) :
    gatedEvent op s = gatedNext s (op s) := by
  unfold gatedEvent gatedNext whenRendering; simp [h]

/-- A gated event that takes a next state either ran or, with rendering off, did nothing at all. -/
theorem gatedEvent_next {op : State → State} {s t : State} (h : gatedEvent op s = .next t) :
    s.fault = none ∧ (s.rendering = true ∧ t = op s ∨ s.rendering = false ∧ t = s) := by
  obtain ⟨hf, rfl⟩ := whileLive_next h
  refine ⟨hf, ?_⟩
  unfold whenRendering
  cases s.rendering <;> simp

end Sys2Proof.Machine
end

