-- ==== Sys2Proof/Laws/Tables.lean ====
section
/-! SUPPORT. Facts of the decided event tables, each by computing the tables once (40_scheduler.md R160 to R163), and of the lists a position stands for. -/

namespace Sys2Proof.Machine

/-- Construction accepts the decided tables (30_encoding.md R114). -/
theorem decidedTables_valid : tablesValid decidedTables = true := by decide +kernel

/-- The decided tables meet what the spec asks of any table (40_scheduler.md R157, R159). -/
theorem decidedTables_admissible : tablesAdmissible decidedTables = true := by decide +kernel

/-- The lists of a built table are the lists of its lines. -/
theorem buildTable_getElem? (lines : List TableLine) (d : Fin 341) :
    (buildTable lines)[d.val]? = some (buildList lines d.val) := by
  simp [buildTable, d.isLt]

/-- The decided tables hold a list for every position. -/
theorem eventList_decided (scanline : Fin 262) (dot : Fin 341) :
    eventList decidedTables scanline dot = some
      (match scanlineKind scanline with
       | .visible => buildList visibleLines dot.val
       | .prerender => buildList prerenderLines dot.val
       | .vblank => buildList vblankLines dot.val
       | .idle => []) := by
  unfold eventList
  cases scanlineKind scanline <;> simp [decidedTables, buildTable_getElem?]

/-- The kind of a scanline, by its number (40_scheduler.md R151). -/
theorem scanlineKind_vblank_iff : ∀ scanline : Fin 262, scanlineKind scanline = .vblank ↔ scanline = 241 := by
  decide +kernel

/-- A table construction accepts holds a list for every dot. -/
theorem tableValid_getElem? {t : List (List EvtWord)} (h : tableValid t = true) (d : Fin 341) :
    ∃ l, t[d.val]? = some l ∧ l.length ≤ 8 ∧ ∀ w ∈ l, (decodeEvt w).isOk = true := by
  simp only [tableValid, Bool.and_eq_true, beq_iff_eq, List.all_eq_true] at h
  have hd : d.val < t.length := by omega
  refine ⟨t[d.val], by simp [hd], ?_⟩
  have := h.2 t[d.val] (List.getElem_mem hd)
  simpa using this

/-- Tables construction accepts hold a list of at most 8 legal words for every position. -/
theorem eventList_of_valid {t : EventTables} (h : tablesValid t = true) (scanline : Fin 262) (dot : Fin 341) :
    ∃ l, eventList t scanline dot = some l ∧ l.length ≤ 8 ∧ ∀ w ∈ l, (decodeEvt w).isOk = true := by
  simp only [tablesValid, Bool.and_eq_true] at h
  unfold eventList
  cases scanlineKind scanline
  · exact tableValid_getElem? h.1.1 dot
  · exact ⟨[], rfl, by simp⟩
  · exact tableValid_getElem? h.2 dot
  · exact tableValid_getElem? h.1.2 dot

/-- When the Engine finds a list it can run: the tables hold it, and it is no longer than MAX_EVENTS. -/
theorem positionList_eq_ok {s : State} {words : List EvtWord} :
    s.positionList = .ok words ↔
      eventList s.cfg.tables s.time.scanline s.time.dot = some words ∧ words.length ≤ 8 := by
  unfold State.positionList
  cases he : eventList s.cfg.tables s.time.scanline s.time.dot with
  | none => simp
  | some l =>
    simp only [Option.some.injEq]
    split
    · simp only [Except.ok.injEq]
      exact ⟨fun h => by subst h; exact ⟨rfl, ‹_›⟩, And.left⟩
    · simp only [reduceCtorEq, false_iff]
      rintro ⟨rfl, h⟩
      exact absurd h ‹_›

/-- When it finds none: the tables hold no list, or one that is too long; and the fault that is. -/
theorem positionList_eq_error {s : State} {f : FaultInfo} :
    s.positionList = .error f ↔
      (eventList s.cfg.tables s.time.scanline s.time.dot = none ∧
        f = .invariantViolation (.noEventList s.time.scanline.val s.time.dot.val)) ∨
      (∃ words, eventList s.cfg.tables s.time.scanline s.time.dot = some words ∧ 8 < words.length ∧
        f = .invariantViolation (.overlongList s.time.scanline.val s.time.dot.val)) := by
  unfold State.positionList
  cases he : eventList s.cfg.tables s.time.scanline s.time.dot with
  | none => simp [eq_comm]
  | some l =>
    by_cases hl : l.length ≤ 8
    · simp [hl, Nat.not_lt.mpr hl]
    · simp [hl, Nat.lt_of_not_le hl, eq_comm]

/-- With tables construction accepts, every position has a list that can run. -/
theorem positionList_of_valid {s : State} (h : tablesValid s.cfg.tables = true) :
    ∃ words, s.positionList = .ok words ∧ ∀ w ∈ words, (decodeEvt w).isOk = true := by
  obtain ⟨l, he, hl, hw⟩ := eventList_of_valid h s.time.scanline s.time.dot
  exact ⟨l, positionList_eq_ok.mpr ⟨he, hl⟩, hw⟩

end Sys2Proof.Machine
end

