-- ==== Sys2Proof/Laws/Engine.lean ====
section
/-! SUPPORT. What a step can do: the cases of a step and of a dot, and the packaging of an induction over a dot's events. -/

namespace Sys2Proof.Machine

/-! ### An operation from a state without a fault -/

/-- Every well-formed operation is one that runs only while no fault is recorded. -/
theorem exec_shape {i : Instr} (hi : i.wellFormed = true) : ∃ op : State → State, ∀ s, exec i s = whileLive op s := by
  cases i
  case wrOamdma page data =>
    have : data.length = 256 := by simpa [Instr.wellFormed] using hi
    exact ⟨writeOamDma data, fun s => by simp [exec, execWrOamdma, this]⟩
  all_goals exact ⟨_, fun s => rfl⟩

/-- From a state without a fault every well-formed operation has a next state. -/
theorem exec_live {s : State} (h : s.fault = none) {i : Instr} (hi : i.wellFormed = true) : ∃ t, exec i s = .next t := by
  obtain ⟨op, hop⟩ := exec_shape hi
  exact ⟨op s, by rw [hop, whileLive_of_live h]⟩

/-- A state with a recorded fault has no step in any well-formed operation (60_exceptions.md R352). -/
theorem exec_of_fault {s : State} {f : FaultInfo} (h : s.fault = some f) {i : Instr} (hi : i.wellFormed = true) :
    exec i s = .fault (.halted f) := by
  obtain ⟨op, hop⟩ := exec_shape hi
  rw [hop, whileLive_of_fault h]

/-- Every event is well formed. -/
theorem wellFormed_of_isEvent {i : Instr} (h : i.isEvent = true) : i.wellFormed = true := by
  cases i <;> first | rfl | cases h

/-! ### Event words -/

/-- What an event decoder gives is an event. -/
theorem decodeEvt_isEvent {w : EvtWord} {i : Instr} (h : decodeEvt w = .ok i) : i.isEvent = true := by
  have key : ∀ w : EvtWord, (match decodeEvt w with | .ok i => i.isEvent | .error _ => true) = true := by
    decide +kernel
  have := key w
  rw [h] at this
  exact this

/-- What executing a word from a state without a fault does. -/
theorem executeWord_cases {s : State} (h : s.fault = none) (w : EvtWord) :
    (∃ i, decodeEvt w = .ok i ∧ i.isEvent = true ∧ executeWord w s = exec i s) ∨
    (∃ e, decodeEvt w = .error e ∧
      executeWord w s = .next { s with fault := some (.invariantViolation (.eventWord w)) }) := by
  unfold executeWord
  cases hd : decodeEvt w with
  | ok i => exact .inl ⟨i, rfl, decodeEvt_isEvent hd, rfl⟩
  | error e => exact .inr ⟨e, rfl, by simp [h, State.raise_of_none h]⟩

/-- A word executed from a state without a fault has a next state. -/
theorem executeWord_live {s : State} (h : s.fault = none) (w : EvtWord) : ∃ t, executeWord w s = .next t := by
  obtain ⟨i, -, hi, he⟩ | ⟨e, -, he⟩ := executeWord_cases h w
  · rw [he]; exact exec_live h (wellFormed_of_isEvent hi)
  · exact ⟨_, he⟩

/-- The packaged induction over a list of events: a relation that every executed word gives and that composes holds between
the state before the list and the state after it. -/
theorem runEvents_induct {P : State → State → Prop} (hrefl : ∀ s, P s s)
    (htrans : ∀ {a b c}, P a b → P b c → P a c) :
    ∀ (words : List EvtWord) (s t : State), s.fault = none →
      (∀ (w : EvtWord), w ∈ words → ∀ a b, a.fault = none → executeWord w a = .next b → P a b) →
      runEvents words s = .next t → P s t := by
  intro words
  induction words with
  | nil => intro s t _ _ h; cases h; exact hrefl s
  | cons w rest ih =>
    intro s t hs hstep h
    obtain ⟨u, hu⟩ := executeWord_live hs w
    have hP : P s u := hstep w (by simp) s u hs hu
    unfold runEvents at h
    simp only [hu] at h
    cases hf : u.fault with
    | some f => simp [hf] at h; subst h; exact hP
    | none =>
      simp [hf] at h
      exact htrans hP (ih u t hf (fun w hw => hstep w (by simp [hw])) h)

/-- A list of events run from a state without a fault has a next state. -/
theorem runEvents_live (words : List EvtWord) {s : State} (h : s.fault = none) : ∃ t, runEvents words s = .next t := by
  induction words generalizing s with
  | nil => exact ⟨s, rfl⟩
  | cons w rest ih =>
    obtain ⟨u, hu⟩ := executeWord_live h w
    unfold runEvents
    simp only [hu]
    cases hf : u.fault with
    | some f => exact ⟨u, by simp⟩
    | none => simpa using ih hf

/-- A list runs as its first part, if that is decoded and records no fault, and then the rest. -/
theorem runEvents_append (before after : List EvtWord) {s u : State} {is : List Instr} (hd : decodeEvents before = some is)
    (hr : runInstrs is s = .next u) (hu : u.fault = none) : runEvents (before ++ after) s = runEvents after u := by
  induction before generalizing s is with
  | nil => cases hd; cases hr; rfl
  | cons w rest ih =>
    simp only [decodeEvents] at hd
    cases hw : decodeEvt w with
    | error e => simp [hw] at hd
    | ok i =>
      cases hj : decodeEvents rest with
      | none => simp [hw, hj] at hd
      | some js =>
        simp [hw, hj] at hd
        subst hd
        unfold runInstrs at hr
        simp only [List.cons_append, runEvents, executeWord, hw]
        cases he : exec i s with
        | next v =>
          rw [he] at hr
          cases hv : v.fault with
          | none => simp only [hv] at hr ⊢; exact ih hj hr
          | some f => simp [hv] at hr; subst hr; rw [hu] at hv; cases hv
        | fault _ => rw [he] at hr; cases hr
        | refused _ => rw [he] at hr; cases hr

/-- Legal words, none of which raises a fault, run as their instructions do. -/
theorem runEvents_eq_runInstrs {words : List EvtWord} {is : List Instr} (h : decodeEvents words = some is) (s : State) :
    runEvents words s = runInstrs is s := by
  induction words generalizing is s with
  | nil => cases h; rfl
  | cons w rest ih =>
    simp only [decodeEvents] at h
    cases hd : decodeEvt w with
    | error e => simp [hd] at h
    | ok i =>
      cases hr : decodeEvents rest with
      | none => simp [hd, hr] at h
      | some js =>
        simp only [hd, hr, Option.some.injEq] at h
        subst h
        simp only [runEvents, runInstrs, executeWord, hd]
        cases exec i s with
        | next u => simp only [ih hr]
        | fault f => rfl
        | refused r => rfl

/-! ### A dot -/

/-- What `AdvanceOneDot` does from a state without a fault: its events run and the counters advance, or a fault is
recorded and they do not. -/
theorem advanceOneDot_cases {s : State} (h : s.fault = none) :
    (∃ words u, s.positionList = .ok words ∧ runEvents words s = .next u ∧
      ((u.fault = none ∧ advanceOneDot s = .next u.tick) ∨ (∃ f, u.fault = some f ∧ advanceOneDot s = .next u))) ∨
    (∃ f, s.positionList = .error f ∧ advanceOneDot s = .next { s with fault := some f }) := by
  unfold advanceOneDot
  rw [h]
  cases he : s.positionList with
  | error f => exact .inr ⟨f, rfl, by simp [State.raise_of_none h]⟩
  | ok words =>
    obtain ⟨u, hu⟩ := runEvents_live words h
    refine .inl ⟨words, u, rfl, hu, ?_⟩
    simp only [hu, finishDot]
    cases hf : u.fault with
    | none => exact .inl ⟨rfl, by simp⟩
    | some f => exact .inr ⟨f, rfl, by simp⟩

/-! ### A step -/

theorem step_of_fault {s : State} {f : FaultInfo} (h : s.fault = some f) : step s = .fault (.halted f) := by
  unfold step
  cases s.moves with
  | nil => simp [advanceOneDot, h]
  | cons m rest => simp [perform, h]

theorem step_nil {s : State} (h : s.moves = []) : step s = advanceOneDot s := by
  unfold step; rw [h]

theorem step_cons {s : State} {m : HostMove} {rest : List HostMove} (h : s.moves = m :: rest) :
    step s = perform m { s with moves := rest } := by
  unfold step; rw [h]

/-- A step that has a next state: one dot, or one host move from the queue. -/
theorem step_cases {s t : State} (h : step s = .next t) :
    s.fault = none ∧
    ((s.moves = [] ∧ advanceOneDot s = .next t) ∨
      ∃ m rest, s.moves = m :: rest ∧ perform m { s with moves := rest } = .next t) := by
  have hf : s.fault = none := by
    cases hf : s.fault with
    | some f => rw [step_of_fault hf] at h; cases h
    | none => rfl
  refine ⟨hf, ?_⟩
  cases hm : s.moves with
  | nil => exact .inl ⟨rfl, by rw [← step_nil hm]; exact h⟩
  | cons m rest => exact .inr ⟨m, rest, rfl, by rw [step_cons hm] at h; exact h⟩

/-- What a host move does when it has a next state. -/
theorem perform_cases {m : HostMove} {s t : State} (h : perform m s = .next t) :
    s.fault = none ∧
    ((m = .advance ∧ advanceOneDot s = .next t) ∨
     (∃ w ops i, m = .port w ops ∧ decodePort w ops = .ok i ∧ exec i s = .next t) ∨
     (m = .reset ∧ t = resetEngine s) ∨
     (m = .renderingEnabled ∧ t = s.answerWith (.flag s.rendering)) ∨
     (m = .irqClear ∧ t = s.irqClear) ∨
     (m = .irqIsAsserted ∧ t = s.answerWith (.flag s.irqLine)) ∨
     (∃ sc d, m = .readColour sc d ∧ t = s.answerWith (.colour (s.colourAt sc d))) ∨
     (∃ a, m = .mapperReadCpu a ∧ t = readCpuSide a s) ∨
     (∃ a b, m = .mapperWriteCpu a b ∧ t = s.raise (mapperWriteCpuFault a))) := by
  unfold perform at h
  cases hf : s.fault with
  | some f => simp [hf] at h
  | none =>
    refine ⟨rfl, ?_⟩
    cases m <;> simp [hf] at h
    case advance => exact .inl ⟨rfl, h⟩
    case port w ops =>
      right; left
      unfold performPort at h
      cases hd : decodePort w ops with
      | ok i => exact ⟨w, ops, i, rfl, hd, by simpa [hd] using h⟩
      | error e => cases e <;> simp [hd] at h
    case readColour sc d => exact .inr (.inr (.inr (.inr (.inr (.inr (.inl ⟨sc, d, rfl, h.symm⟩))))))
    all_goals simp [← h]

/-- Which operation a port word and its operands decode to is a port operation. -/
theorem decodePort_isPort {w : PortWord} {ops : List Byte} {i : Instr} (h : decodePort w ops = .ok i) :
    i.isEvent = false := by
  have hw : ∀ p m v, (portWrite p m v).isEvent = false := by
    intro p m v; unfold portWrite; split <;> rfl
  have hr : ∀ p m, (portRead p m).isEvent = false := by
    intro p m; unfold portRead; split <;> rfl
  unfold decodePort at h
  split at h
  · split at h
    · split at h <;> cases h; rfl
    · cases h
  · split at h
    · split at h
      · split at h <;> cases h; exact hw _ _ _
      · split at h <;> cases h; exact hr _ _
    · cases h

end Sys2Proof.Machine
end

