-- ==== Sys2Proof/Laws/Operands.lean ====
section
/-! SUPPORT. The address computations as sums of numbers: pattern and sprite rows, the data port, the address writes. -/

namespace Sys2Proof.Machine

/-- A row of a tile: table, tile and row as one number (41_background.md R195, 42_sprites.md R234). -/
theorem tileRow_eq : ∀ (table : Bool) (tile : Byte) (row : BitVec 3),
    (zext16 (BitVec.ofBool table) <<< 12) ||| (zext16 tile <<< 4) ||| zext16 row =
      BitVec.ofNat 16 (0x1000 * (if table = true then 1 else 0) + 16 * tile.toNat + row.toNat) := by
  decide +kernel

/-- A row of a 16-row sprite: its table and its two tiles as one number (42_sprites.md R234). -/
theorem tallRow_toNat : ∀ (tile : Byte) (row : BitVec 4),
    ((zext16 (tile.extractLsb' 0 1) <<< 12) ||| (zext16 (tile.extractLsb' 1 7) <<< 5)
      ||| (zext16 (row.extractLsb' 3 1) <<< 4) ||| zext16 (row.extractLsb' 0 3)).toNat =
      0x1000 * (tile.toNat % 2) + 32 * (tile.toNat / 2) + 16 * (row.toNat / 8) + row.toNat % 8 := by
  decide +kernel

/-- The data port presents `v` modulo 0x4000 (20_memory.md R79). -/
theorem dataAddr_eq (v : VramAddr) : dataAddr v = BitVec.ofNat 16 (v.toNat % 0x4000) := by
  apply BitVec.eq_of_toNat_eq
  unfold dataAddr zext16
  rw [BitVec.toNat_setWidth, BitVec.toNat_and, show (0x3FFF : BitVec 15).toNat = 2 ^ 14 - 1 from rfl,
    Nat.and_two_pow_sub_one_eq_mod, BitVec.toNat_ofNat]

/-- The step of the data port's address (44_register_ports.md R295). -/
theorem incDataAddr_eq (ctrl : Byte) (v : VramAddr) :
    incDataAddr ctrl v = BitVec.ofNat 15 (v.toNat + if ctrl.getLsbD 2 then 32 else 1) := by
  apply BitVec.eq_of_toNat_eq
  unfold incDataAddr
  rw [BitVec.toNat_add, BitVec.toNat_ofNat]
  split <;> rfl

/-- A write of the low byte of a 15-bit register (44_register_ports.md R293). -/
theorem tFromAddrLow_toNat (t : VramAddr) (val : Byte) :
    (tFromAddrLow t val).toNat = t.toNat / 256 * 256 + val.toNat := by
  have h : tFromAddrLow t val = BitVec.ofNat 15 (t.toNat / 256 * 256 + val.toNat) := by
    apply BitVec.eq_of_getLsbD_eq
    intro i hi
    unfold tFromAddrLow
    rw [getLsbD_putField, BitVec.getLsbD_ofNat]
    have h1 : t.toNat / 256 * 256 + val.toNat = 2 ^ 8 * (t.toNat / 256) + val.toNat := by omega
    rw [h1, Nat.testBit_two_pow_mul_add _ val.isLt]
    by_cases h8 : i < 8
    · simp [h8, hi, BitVec.getLsbD]
    · have : (t.toNat / 256).testBit (i - 8) = t.toNat.testBit i := by
        rw [show 256 = 2 ^ 8 from rfl, ← Nat.shiftRight_eq_div_pow, Nat.testBit_shiftRight]
        congr 1
        omega
      simp [h8, hi, this, BitVec.getLsbD]
  rw [h, BitVec.toNat_ofNat]
  have := t.isLt
  have := val.isLt
  omega

/-- A write of the high byte: six bits of it, and bit 14 cleared (44_register_ports.md R292). -/
theorem tFromAddrHigh_eq (t : VramAddr) (val : Byte) :
    tFromAddrHigh t val = BitVec.ofNat 15 (val.toNat % 64 * 256 + t.toNat % 256) := by
  apply BitVec.eq_of_getLsbD_eq
  intro i hi
  unfold tFromAddrHigh
  rw [getLsbD_putField, getLsbD_putField, BitVec.getLsbD_ofNat]
  have h1 : val.toNat % 64 * 256 + t.toNat % 256 = 2 ^ 8 * (val.toNat % 64) + t.toNat % 256 := by omega
  rw [h1, Nat.testBit_two_pow_mul_add _ (by omega)]
  have a1 : (t.toNat % 256).testBit i = (decide (i < 8) && t.toNat.testBit i) := Nat.testBit_mod_two_pow t.toNat 8 i
  have a2 : (val.toNat % 64).testBit (i - 8) = (decide (i - 8 < 6) && val.toNat.testBit (i - 8)) :=
    Nat.testBit_mod_two_pow val.toNat 6 (i - 8)
  rw [a1, a2]
  rcases (by omega : i < 8 ∨ (8 ≤ i ∧ i < 14) ∨ i = 14) with h | h | h
  · simp only [h, hi]
    rw [if_neg (by omega), if_neg (by omega)]
    simp [BitVec.getLsbD]
  · rw [if_neg (by omega), if_pos (by omega), if_neg (by omega), BitVec.getLsbD_extractLsb']
    have : i - 8 < 6 := by omega
    simp [this, hi, BitVec.getLsbD]
  · subst h
    simp

end Sys2Proof.Machine
end

