-- ==== Sys2Proof/Laws/PerInstr.lean ====
section
/-! SUPPORT. Decoding the code of a well-formed operation gives it back: the field lemmas of a window word, and one lemma for each constructor. -/

namespace Sys2Proof

/-! ### The fields of a window word (30_encoding.md R116) -/

@[simp] theorem windowWord_port (rw : Bool) (mirror : BitVec 10) (port : BitVec 3) :
    (windowWord rw mirror port).extractLsb' 0 3 = port := by
  apply BitVec.eq_of_getLsbD_eq
  intro i hi
  simp only [windowWord, BitVec.getLsbD_extractLsb', BitVec.getLsbD_append]
  simp [hi]

@[simp] theorem windowWord_mirror (rw : Bool) (mirror : BitVec 10) (port : BitVec 3) :
    (windowWord rw mirror port).extractLsb' 3 10 = mirror := by
  apply BitVec.eq_of_getLsbD_eq
  intro i hi
  simp only [windowWord, BitVec.getLsbD_extractLsb', BitVec.getLsbD_append]
  simp [hi]

@[simp] theorem windowWord_inWindow (rw : Bool) (mirror : BitVec 10) (port : BitVec 3) :
    inWindow (windowWord rw mirror port) = true := by
  unfold inWindow
  simp only [beq_iff_eq]
  apply BitVec.eq_of_getLsbD_eq
  intro i hi
  simp only [windowWord, BitVec.getLsbD_extractLsb', BitVec.getLsbD_append]
  have h1 : ¬ 13 + i < 3 := by omega
  have h2 : ¬ 13 + i - 3 < 10 := by omega
  have h3 : 13 + i - 3 - 10 = i := by omega
  have h4 : i < 1 + 1 + 1 := by omega
  have h5 : i = 0 ∨ i = 1 ∨ i = 2 := by omega
  rcases h5 with rfl | rfl | rfl <;> simp

@[simp] theorem windowWord_rw (rw : Bool) (mirror : BitVec 10) (port : BitVec 3) :
    (windowWord rw mirror port)[16] = rw := by
  rw [← BitVec.getLsbD_eq_getElem]
  simp only [windowWord, BitVec.getLsbD_append]
  simp

@[simp] theorem windowWord_notDma (rw : Bool) (mirror : BitVec 10) (port : BitVec 3) :
    isDmaWord (windowWord rw mirror port) = false := by
  unfold isDmaWord
  rw [beq_eq_false_iff_ne]
  intro h
  have h1 := windowWord_inWindow rw mirror port
  rw [h] at h1
  exact absurd h1 (by decide)

theorem decodePort_write (mirror : BitVec 10) (port : BitVec 3) (val : Byte) :
    decodePort (windowWord true mirror port) [val] = .ok (portWrite port mirror val) := by
  simp [decodePort]

theorem decodePort_read (mirror : BitVec 10) (port : BitVec 3) :
    decodePort (windowWord false mirror port) [] = .ok (portRead port mirror) := by
  simp [decodePort]

/-- A window word is made of its fields. -/
theorem windowWord_of_fields {w : PortWord} (h : inWindow w = true) :
    windowWord (w.getLsbD 16) (w.extractLsb' 3 10) (w.extractLsb' 0 3) = w := by
  have hw : w.extractLsb' 13 3 = 1#3 := by simpa [inWindow] using h
  have hbit : ∀ j, w.getLsbD (13 + j) = if j < 3 then (1#3).getLsbD j else w.getLsbD (13 + j) := by
    intro j
    split
    · rename_i hj
      rw [← hw]; simp [hj]
    · rfl
  apply BitVec.eq_of_getLsbD_eq
  intro i hi
  simp only [windowWord, BitVec.getLsbD_append, BitVec.getLsbD_extractLsb']
  by_cases h1 : i < 3
  · simp [h1]
  · by_cases h2 : i - 3 < 10
    · have : 3 + (i - 3) = i := by omega
      simp [h1, h2, this]
    · have h5 : i = 13 ∨ i = 14 ∨ i = 15 ∨ i = 16 := by omega
      rcases h5 with rfl | rfl | rfl | rfl
      · have := hbit 0; simp at this; simp [this]
      · have := hbit 1; simp at this; simp [this]
      · have := hbit 2; simp at this; simp [this]
      · simp

end Sys2Proof

/-! ### The family -/

/-- Decoding the code of the operation gives the operation back. -/
def Sys2Proof.Laws.RoundTrip.Statement (i : Sys2Proof.Instr) : Prop :=
  i.wellFormed = true → Sys2Proof.decode (Sys2Proof.encode i) = .ok i

namespace Sys2Proof.Laws.RoundTrip

theorem noneEvt : Statement .noneEvt := fun _ => by decide

theorem fetchNt : Statement .fetchNt := fun _ => by decide

theorem fetchAt : Statement .fetchAt := fun _ => by decide

theorem fetchPtLo : Statement .fetchPtLo := fun _ => by decide

theorem fetchPtHi : Statement .fetchPtHi := fun _ => by decide

theorem shift : Statement .shift := fun _ => by decide

theorem reload : Statement .reload := fun _ => by decide

theorem incX : Statement .incX := fun _ => by decide

theorem incY : Statement .incY := fun _ => by decide

theorem copyX : Statement .copyX := fun _ => by decide

theorem copyY : Statement .copyY := fun _ => by decide

theorem oamaddrClear : Statement .oamaddrClear := fun _ => by decide

theorem clearStatus : Statement .clearStatus := fun _ => by decide

theorem vblankSet : Statement .vblankSet := fun _ => by decide

theorem evalReset : Statement .evalReset := fun _ => by decide

theorem secClear : Statement .secClear := fun _ => by decide

theorem sprEval : Statement .sprEval := fun _ => by decide

theorem sprLatch : Statement .sprLatch := fun _ => by decide

theorem sprNone : Statement .sprNone := fun _ => by decide

theorem pixel : Statement .pixel := fun _ => by decide

theorem sprLoad (slot : BitVec 3) : Statement (.sprLoad slot) := fun _ => by revert slot; decide

theorem sprFetchLo (slot : BitVec 3) : Statement (.sprFetchLo slot) := fun _ => by revert slot; decide

theorem sprFetchHi (slot : BitVec 3) : Statement (.sprFetchHi slot) := fun _ => by revert slot; decide

theorem wrCtrl (mirror : BitVec 10) (val : Byte) : Statement (.wrCtrl mirror val) :=
  fun _ => decodePort_write mirror 0 val

theorem wrMask (mirror : BitVec 10) (val : Byte) : Statement (.wrMask mirror val) :=
  fun _ => decodePort_write mirror 1 val

theorem wrStatus (mirror : BitVec 10) (val : Byte) : Statement (.wrStatus mirror val) :=
  fun _ => decodePort_write mirror 2 val

theorem wrOamaddr (mirror : BitVec 10) (val : Byte) : Statement (.wrOamaddr mirror val) :=
  fun _ => decodePort_write mirror 3 val

theorem wrOamdata (mirror : BitVec 10) (val : Byte) : Statement (.wrOamdata mirror val) :=
  fun _ => decodePort_write mirror 4 val

theorem wrScroll (mirror : BitVec 10) (val : Byte) : Statement (.wrScroll mirror val) :=
  fun _ => decodePort_write mirror 5 val

theorem wrAddr (mirror : BitVec 10) (val : Byte) : Statement (.wrAddr mirror val) :=
  fun _ => decodePort_write mirror 6 val

theorem wrData (mirror : BitVec 10) (val : Byte) : Statement (.wrData mirror val) :=
  fun _ => decodePort_write mirror 7 val

theorem rdStatus (mirror : BitVec 10) : Statement (.rdStatus mirror) := fun _ => decodePort_read mirror 2

theorem rdOamdata (mirror : BitVec 10) : Statement (.rdOamdata mirror) := fun _ => decodePort_read mirror 4

theorem rdData (mirror : BitVec 10) : Statement (.rdData mirror) := fun _ => decodePort_read mirror 7

theorem rdOpenP0 (mirror : BitVec 10) : Statement (.rdOpenP0 mirror) := fun _ => decodePort_read mirror 0

theorem rdOpenP1 (mirror : BitVec 10) : Statement (.rdOpenP1 mirror) := fun _ => decodePort_read mirror 1

theorem rdOpenP3 (mirror : BitVec 10) : Statement (.rdOpenP3 mirror) := fun _ => decodePort_read mirror 3

theorem rdOpenP5 (mirror : BitVec 10) : Statement (.rdOpenP5 mirror) := fun _ => decodePort_read mirror 5

theorem rdOpenP6 (mirror : BitVec 10) : Statement (.rdOpenP6 mirror) := fun _ => decodePort_read mirror 6

theorem wrOamdma (page : Byte) (data : List Byte) : Statement (.wrOamdma page data) := by
  intro h
  have h256 : data.length = 256 := by simpa [Instr.wellFormed] using h
  have hd : isDmaWord 0x14014#17 = true := by decide
  simp [encode, decode, decodePort, hd, h256]

end Sys2Proof.Laws.RoundTrip
end

