-- ==== Sys2Proof/Laws/Sprite.lean ====
section
/-! SUPPORT. What the sprite operations compute, by case: the indices of the events, the range of a sprite, the copy of an entry, one examination, and the DMA fill of primary OAM. -/

namespace Sys2Proof.Machine

/-- The sprite number of an evaluation dot as a quotient (42_sprites.md R226). -/
theorem evalIndex_eq (dot : Nat) : evalIndex dot = ((dot : Int) - 65) / 2 := by
  unfold evalIndex
  rw [Int.shiftRight_eq_div_pow]
  rfl

/-- A sprite covers the scanline from its Y on, for its height (42_sprites.md R226). -/
theorem spriteCovers_iff (s : State) (y : Byte) :
    s.spriteCovers y = true ↔
      y.toNat ≤ s.time.scanline.val ∧ s.time.scanline.val < y.toNat + if s.regs.ctrl.getLsbD 5 then 16 else 8 := by
  unfold State.spriteCovers spriteHeight
  simp only [Bool.and_eq_true, decide_eq_true_eq]
  split <;> omega

/-- Copying an entry, byte by byte of secondary OAM. -/
theorem getElem_copyEntry (sec : Vector Byte 32) (i : Fin 8) (f : Nat → Byte) (k : Nat) (hk : k < 32) :
    (copyEntry sec i (f 0) (f 1) (f 2) (f 3))[k] = if k / 4 = i.val then f (k % 4) else sec[k] := by
  unfold copyEntry
  simp only [Vector.getElem_set]
  split <;> rename_i h3
  · rw [if_pos (by omega)]; congr 1; omega
  · split <;> rename_i h2
    · rw [if_pos (by omega)]; congr 1; omega
    · split <;> rename_i h1
      · rw [if_pos (by omega)]; congr 1; omega
      · split <;> rename_i h0
        · rw [if_pos (by omega)]; congr 1; omega
        · rw [if_neg (by omega)]

/-- One examination does one of three things (42_sprites.md R226). -/
theorem evalSprite_cases (n : Nat) (s : State) :
    (s.spriteCovers (s.oamAt (4 * n)) = false ∧ evalSprite n s = s) ∨
    (s.spriteCovers (s.oamAt (4 * n)) = true ∧ s.spr.secCount.val = 8 ∧
      evalSprite n s = { s with status.overflow := true }) ∨
    (s.spriteCovers (s.oamAt (4 * n)) = true ∧ ∃ h : s.spr.secCount.val < 8,
      evalSprite n s = { s with spr := { s.spr with
        secOam := copyEntry s.spr.secOam ⟨s.spr.secCount.val, h⟩
          (s.oamAt (4 * n)) (s.oamAt (4 * n + 1)) (s.oamAt (4 * n + 2)) (s.oamAt (4 * n + 3))
        spr0Next := if n = 0 then true else s.spr.spr0Next
        secCount := ⟨s.spr.secCount.val + 1, by omega⟩ } }) := by
  unfold evalSprite
  cases hc : s.spriteCovers (s.oamAt (4 * n)) with
  | false => exact .inl ⟨rfl, by simp⟩
  | true =>
    by_cases h : s.spr.secCount.val < 8
    · exact .inr (.inr ⟨rfl, h, by simp [h]⟩)
    · have := s.spr.secCount.isLt
      exact .inr (.inl ⟨rfl, by omega, by simp [h]⟩)

/-- A fill of primary OAM changes nothing else (44_register_ports.md R300). -/
theorem fillOam_frame (l : List Byte) (s : State) (start : Byte) :
    s.fillOam start l = { s with oam := (s.fillOam start l).oam } := by
  induction l generalizing s start with
  | nil => rfl
  | cons b rest ih =>
    unfold State.fillOam
    rw [ih]
    rfl

/-- What a fill of at most 256 bytes leaves in primary OAM: its bytes from the start on, wrapping, and the rest as it was
(44_register_ports.md R300). -/
theorem oamAt_fillOam (l : List Byte) (s : State) (start : Byte) (hl : l.length ≤ 256) :
    (∀ i (hi : i < l.length), (s.fillOam start l).oamAt ((start.toNat + i) % 256) = l[i]) ∧
    (∀ k, (∀ i, i < l.length → k ≠ (start.toNat + i) % 256) → (s.fillOam start l).oamAt k = s.oamAt k) := by
  induction l generalizing s start with
  | nil => exact ⟨by simp, fun k _ => rfl⟩
  | cons b rest ih =>
    simp only [List.length_cons] at hl
    obtain ⟨h1, h2⟩ := ih (s.setOam start.toNat b) (start + 1) (by omega)
    have ha := start.isLt
    have e : ∀ i, ((start + 1).toNat + i) % 256 = (start.toNat + (i + 1)) % 256 := by
      intro i
      rw [BitVec.toNat_add]
      simp
      omega
    unfold State.fillOam
    constructor
    · intro i hi
      cases i with
      | zero =>
        rw [h2]
        · have : (start.toNat + 0) % 256 = start.toNat := by omega
          rw [this]
          simp
        · intro i hi'
          rw [e]
          omega
      | succ j =>
        simp only [List.length_cons] at hi
        rw [← e, h1 j (by omega)]
        rfl
    · intro k hk
      rw [h2]
      · apply oamAt_setOam_other
        have := hk 0 (by simp)
        simp at this
        omega
      · intro i hi
        rw [e]
        exact hk (i + 1) (by simp; omega)

end Sys2Proof.Machine
end

