-- ==== Sys2Proof/Tests/Slice0.lean ====
section
/-! SUPPORT. Tests: the expected results are those of 95_test_vectors.md and of the rules' own examples; the words are written out from the tables of 30_encoding.md. Then a witness for the hypotheses of each statement. -/

namespace Sys2Proof.Tests

open Sys2Proof Sys2Proof.Machine

/-! ### Small states -/

/-- The value of a field of the next state. -/
def field {α : Type} (o : Result) (f : State → α) : Option α :=
  match o with
  | .next t => some (f t)
  | .fault _ => none
  | .refused _ => none

/-- Rendering on, both layers shown, the left columns too. -/
def on : State := { State.reset with regs.mask := 0x1E }

/-- Rendering on, with this `v`. -/
def withV (v : VramAddr) : State := { on with scroll.v := v }

/-- Rendering on, at this position. -/
def onAt (scanline : Fin 262) (dot : Fin 341) : State :=
  { on with time.scanline := scanline, time.dot := dot }

/-- Rendering on, in a session whose character memory holds these bytes. -/
def withChr (chr : Cells Byte) : State := { on with cfg.chr := chr }

/-! ### Well-formedness: the one check, on a term it refuses -/

theorem test_wellFormed_refuses_dma_without_data : (Instr.wrOamdma 0 []).wellFormed = false := by decide
theorem test_wellFormed_refuses_dma_one_short :
    (Instr.wrOamdma 0 (List.replicate 255 0)).wellFormed = false := by decide +kernel
theorem test_ill_formed_dma_is_refused : exec (.wrOamdma 0 [1]) on = .refused (.illFormedDma 1) := rfl

/-! ### Decoding (30_encoding.md R111, R112, R114): every event word from the table -/

theorem test_decode_background_events :
    decodeEvt 0b00001000#8 = .ok .fetchNt ∧ decodeEvt 0b00010000#8 = .ok .fetchAt ∧
    decodeEvt 0b00011000#8 = .ok .fetchPtLo ∧ decodeEvt 0b00100000#8 = .ok .fetchPtHi ∧
    decodeEvt 0b00101000#8 = .ok .shift ∧ decodeEvt 0b00110000#8 = .ok .reload ∧
    decodeEvt 0b00111000#8 = .ok .incX ∧ decodeEvt 0b01000000#8 = .ok .incY ∧
    decodeEvt 0b01001000#8 = .ok .copyX ∧ decodeEvt 0b01010000#8 = .ok .copyY := by decide

theorem test_decode_sprite_events :
    decodeEvt 0b01011000#8 = .ok .oamaddrClear ∧ decodeEvt 0b01110000#8 = .ok .evalReset ∧
    decodeEvt 0b01111000#8 = .ok .secClear ∧ decodeEvt 0b10000000#8 = .ok .sprEval ∧
    decodeEvt 0b10001000#8 = .ok .sprLatch ∧ decodeEvt 0b10010000#8 = .ok .sprNone ∧
    decodeEvt 0b10011011#8 = .ok (.sprLoad 3) ∧ decodeEvt 0b10100000#8 = .ok (.sprFetchLo 0) ∧
    decodeEvt 0b10101111#8 = .ok (.sprFetchHi 7) := by decide

theorem test_decode_other_events :
    decodeEvt 0b00000000#8 = .ok .noneEvt ∧ decodeEvt 0b01100000#8 = .ok .clearStatus ∧
    decodeEvt 0b01101000#8 = .ok .vblankSet ∧ decodeEvt 0b10110000#8 = .ok .pixel := by decide

theorem test_decode_refuses_illegal_events :
    decodeEvt 0xB1#8 = .error (.slotOnSlotlessEvent 0xB1) ∧ decodeEvt 0x09#8 = .error (.slotOnSlotlessEvent 0x09) ∧
    decodeEvt 0xB8#8 = .error (.reservedOpcode 0xB8) ∧ decodeEvt 0xFF#8 = .error (.reservedOpcode 0xFF) := by decide

/-! ### Decoding (30_encoding.md R116, R117): every port word from the table -/

theorem test_decode_port_writes :
    decodePort 0b10010000000000000#17 [7] = .ok (.wrCtrl 0 7) ∧
    decodePort 0b10010000000000001#17 [7] = .ok (.wrMask 0 7) ∧
    decodePort 0b10010000000000010#17 [7] = .ok (.wrStatus 0 7) ∧
    decodePort 0b10010000000000011#17 [7] = .ok (.wrOamaddr 0 7) ∧
    decodePort 0b10010000000000100#17 [7] = .ok (.wrOamdata 0 7) ∧
    decodePort 0b10010101010111101#17 [7] = .ok (.wrScroll 0b0101010111 7) ∧
    decodePort 0b10010000000000110#17 [7] = .ok (.wrAddr 0 7) ∧
    decodePort 0b10011111111111111#17 [7] = .ok (.wrData 0x3FF 7) := by decide

theorem test_decode_port_reads :
    decodePort 0b00011010001011010#17 [] = .ok (.rdStatus 0b1010001011) ∧
    decodePort 0b00010000000000100#17 [] = .ok (.rdOamdata 0) ∧
    decodePort 0b00010000000000111#17 [] = .ok (.rdData 0) ∧
    decodePort 0b00010000000000000#17 [] = .ok (.rdOpenP0 0) ∧
    decodePort 0b00010000000000001#17 [] = .ok (.rdOpenP1 0) ∧
    decodePort 0b00010000000000011#17 [] = .ok (.rdOpenP3 0) ∧
    decodePort 0b00010000000000101#17 [] = .ok (.rdOpenP5 0) ∧
    decodePort 0b00010000000000110#17 [] = .ok (.rdOpenP6 0) := by decide

theorem test_decode_dma :
    decodePort 0b10100000000010100#17 (0x02 :: List.replicate 256 0x55) = .ok (.wrOamdma 0x02 (List.replicate 256 0x55)) := by
  decide +kernel

theorem test_decode_refuses_other_addresses :
    decodePort 0x04014#17 [] = .error (.notAnOperation 0x04014) ∧
    decodePort 0x14015#17 [0] = .error (.notAnOperation 0x14015) ∧
    decodePort 0x11FFF#17 [0] = .error (.notAnOperation 0x11FFF) ∧
    decodePort 0x14000#17 [0] = .error (.notAnOperation 0x14000) := by decide

theorem test_decodeTableWord : decodeTableWord 8 0x9B = some (.sprLoad 3) ∧ decodeTableWord 24 0x02005 = some (.rdOpenP5 0) ∧
    decodeTableWord 24 0x12ABD = some (.wrScroll 0b0101010111 0) ∧ decodeTableWord 8 0xB1 = none ∧
    decodeTableWord 24 0x14000 = none := by decide

/-! ### The event tables (30_encoding.md R113, 40_scheduler.md R160 to R163) -/

theorem test_flat_tables :
    (flatTables decidedTables).length = 8184 ∧
    ((flatTables decidedTables).filter (· ≠ 0)).length = 1466 ∧
    ((flatTables decidedTables).foldl (fun n w => n + w.toNat) 0) = 107492 := by decide +kernel

theorem test_lists_of_a_rendered_line :
    decidedTables.visible[1]? = some [0x08, 0x70, 0xB0] ∧ decidedTables.visible[9]? = some [0x28, 0x30, 0x08, 0xB0] ∧
    decidedTables.visible[65]? = some [0x28, 0x30, 0x08, 0x80, 0xB0] ∧
    decidedTables.visible[256]? = some [0x28, 0x38, 0x40, 0xB0] ∧
    decidedTables.visible[257]? = some [0x28, 0x30, 0x48, 0x58, 0x88, 0x98] ∧
    decidedTables.visible[319]? = some [0x58, 0xAF] := by decide

/-- 40_scheduler.md R159: tables with `COPY_X` moved to dot 340 or 321, too late for the next scanline's first tiles (a), or
to dot 255, before the last `INC_X` of the visible part, are not admissible. -/
theorem test_copyX_not_admissible : ([340, 321, 255].any fun d =>
    renderingTableAdmissible (buildTable
      (prerenderLines.filter (fun l => l.event ≠ .copyX) ++ [lineAt d .copyX]))) = false := by decide +kernel
/-- 40_scheduler.md R159 (i): reloads from dot 6 on have no eight dots before the first of them; with `SHIFT` twice in dot 7
the table has as many shifts as eight for each reload, and is not admissible. Reloads from dot 7 on, one shift in each of the
dots 0..255, are. -/
theorem test_early_reload : ∀ r ∈ [6, 7], renderingTableAdmissible (buildTable
    ([lineEvery 1 249 8 .fetchNt, lineEvery 2 250 8 .fetchAt, lineEvery 3 251 8 .fetchPtLo, lineEvery 4 252 8 .fetchPtHi,
      lineEvery 5 253 8 .incX, lineEvery 321 329 8 .fetchNt, lineEvery 322 330 8 .fetchAt, lineEvery 323 331 8 .fetchPtLo,
      lineEvery 324 332 8 .fetchPtHi, lineEvery 325 333 8 .incX, lineEvery r (r + 248) 8 .reload,
      lineEvery (r + 320) (r + 328) 8 .reload, lineOn 0 (r + 248) .shift, lineOn (r + 313) (r + 328) .shift,
      lineAt 256 .incY, lineAt 257 .copyX, lineAt 257 .oamaddrClear]
     ++ if r = 6 then [lineAt 7 .shift] else [])) = (r == 7) := by decide +kernel
/-- 40_scheduler.md R159 (a), (b), (e), (i), (d): a `vblank` table with a fetch, a reload, an increment or a shift, or a
`prerender` table with `COPY_Y` after the fetches of the next scanline's first tile, is not admissible. -/
theorem test_vblank_table_not_admissible :
    (([.fetchNt, .reload, .incX, .shift] : List Instr).any fun e =>
      tablesAdmissible { decidedTables with vblank := buildTable (vblankLines ++ [lineAt 9 e]) }) = false ∧
    (let late := prerenderLines.map fun l => if l.event = .copyY then lineAt 338 .copyY else l
     tablesAdmissible { decidedTables with prerender := buildTable late }) = false := by decide +kernel
/-- 40_scheduler.md R159: a table without `RELOAD` and `SHIFT` (b, i), one with `SHIFT` twice in a dot (i), with `INC_Y`
twice in dot 256 (f), with the second `COPY_X` in its dot (c), and with `INC_X` a dot late (e) are not admissible. -/
theorem test_tables_not_admissible :
    (renderingTableAdmissible (buildTable (prerenderLines.filter fun l => l.event ≠ .shift ∧ l.event ≠ .reload)) ||
      renderingTableAdmissible (buildTable (lineAt 2 .shift :: prerenderLines)) ||
      renderingTableAdmissible (buildTable (prerenderLines ++ [lineAt 256 .incY])) ||
      renderingTableAdmissible (buildTable (prerenderLines ++ [lineAt 257 .copyX])) ||
      renderingTableAdmissible (buildTable (prerenderLines.map fun l =>
        if l.event = .incX then { l with first := l.first + 1, last := l.last + 1 } else l))) = false := by decide +kernel

theorem test_lists_of_the_other_lines :
    decidedTables.prerender[1]? = some [0x60, 0x08] ∧ decidedTables.prerender[304]? = some [0x50, 0x58] ∧
    decidedTables.prerender[257]? = some [0x28, 0x30, 0x48, 0x58, 0x90] ∧ decidedTables.vblank[1]? = some [0x68] := by
  decide

/-! ### The bus (20_memory.md, 45_mapper.md) -/

theorem test_palSlot : palSlot 0x3F10 = 0 ∧ palSlot 0x3F1C = 0x0C ∧ palSlot 0x3F1F = 0x1F ∧ palSlot 0x3F30 = 0 := by decide
theorem test_ntIndex : ntIndex .vertical 0x2C05 = 0x405 ∧ ntIndex .horizontal 0x2405 = 0x005 ∧
    ntIndex .horizontal 0x2805 = 0x405 ∧ ntIndex .vertical 0x3EFF = 0x6FF := by decide
theorem test_resolve : resolve .vertical 0x1FFF = .mapper 0x1FFF ∧ resolve .vertical 0x7F14 = .cell 0x804 ∧
    resolve .horizontal 0xFFFF = .cell 0x81F := by decide
theorem test_translateCpu : translateCpu 0x4000 0xC000 = .prg 0 ∧ translateCpu 0x4000 0xFFFC = .prg 0x3FFC ∧
    translateCpu 0x8000 0xC000 = .prg 0x4000 ∧ translateCpu 0x8000 0x7FFF = .invalid := by decide
theorem test_mapper_write_cpu : mapperWriteCpuFault 0x8000 = .illegalCartridgeWrite 0x8000 ∧
    mapperWriteCpuFault 0x6000 = .invariantViolation (.address 0x6000) := by decide

/-! ### The scheduler (40_scheduler.md R170) -/

theorem test_nextPosition :
    nextPosition false false 0 340 false = (1, 0, false) ∧ nextPosition false false 261 339 false = (261, 340, false) ∧
    nextPosition false false 261 340 false = (0, 0, true) ∧ nextPosition false false 261 339 true = (0, 0, false) ∧
    nextPosition true false 261 339 true = (261, 340, true) := by decide

/-! ### Background events (41_background.md) -/

theorem test_fetchNt : field (exec .fetchNt { withV 0x2C05 with vram := [(0x405, 0x9A)] }) (·.bg.ntLatch) = some 0x9A := by
  decide
theorem test_fetchNt_off : exec .fetchNt State.reset = .next State.reset := rfl
theorem test_fetchAt : field (exec .fetchAt { withV 0x0042 with vram := [(0x3C0, 0xE4)] }) (·.bg.atLatch) = some 3 := by
  decide
theorem test_atAddr : atAddr 0x0186 = 0x23D9 ∧ atShift 0x0186 = 2 ∧ atAddr 0x7BDE = 0x2BFF ∧ atShift 0x7BDE = 6 := by decide
theorem test_fetchPtLo :
    field (exec .fetchPtLo { withChr [(0x1243, 0x81)] with regs.ctrl := 0x10, scroll.v := 0x3000, bg.ntLatch := 0x24 })
      (·.bg.ptLoLatch) = some 0x81 := by decide
theorem test_fetchPtHi :
    field (exec .fetchPtHi { withChr [(0x1FFF, 0x7E)] with regs.ctrl := 0x10, scroll.v := 0x7000, bg.ntLatch := 0xFF })
      (·.bg.ptHiLatch) = some 0x7E := by decide
theorem test_shift :
    field (exec .shift { on with bg.bgShiftLo := 0x8001, bg.atShiftHi := 0xFFFF }) (fun t => (t.bg.bgShiftLo, t.bg.atShiftHi))
      = some (0x0002, 0xFFFE) := by decide
theorem test_reload :
    field (exec .reload { on with bg := { Background.zero with
        bgShiftLo := 0x3C00, bgShiftHi := 0xFF00, atShiftLo := 0xFF00, ptLoLatch := 0x81, ptHiLatch := 0x7E, atLatch := 2 } })
      (fun t => (t.bg.bgShiftLo, t.bg.bgShiftHi, t.bg.atShiftLo, t.bg.atShiftHi))
      = some (0x3C81, 0xFF7E, 0xFF00, 0x00FF) := by decide
theorem test_incX : field (exec .incX (withV 0x001F)) (·.scroll.v) = some 0x0400 ∧
    field (exec .incX (withV 0x7FFF)) (·.scroll.v) = some 0x7BE0 := by decide
theorem test_incY : field (exec .incY (withV 0x73A0)) (·.scroll.v) = some 0x0800 ∧
    field (exec .incY (withV 0x7FFF)) (·.scroll.v) = some 0x0C1F ∧
    field (exec .incY (withV 0x73C0)) (·.scroll.v) = some 0x03E0 := by decide
theorem test_copyX : field (exec .copyX { withV 0x7BFF with scroll.t := 0x0405 }) (·.scroll.v) = some 0x7FE5 := by
  decide
theorem test_copyY : field (exec .copyY { withV 0x041F with scroll.t := 0x7BE0 }) (·.scroll.v) = some 0x7FFF := by
  decide

/-! ### Sprite events (42_sprites.md) -/

theorem test_oamaddrClear : field (exec .oamaddrClear { on with regs.oamAddr := 0x47 }) (·.regs.oamAddr) = some 0 ∧
    field (exec .oamaddrClear { State.reset with regs.oamAddr := 0x47 }) (·.regs.oamAddr) = some 0x47 := by decide
theorem test_evalReset : field (exec .evalReset { on with spr.secCount := 8, spr.spr0Next := true })
    (fun t => (t.spr.secCount, t.spr.spr0Next)) = some (0, false) := by decide
theorem test_secClear : field (exec .secClear (onAt 20 34)) (fun t => t.spr.secOam.toList.findIdx (· == 0xFF)) = some 16 ∧
    field (exec .secClear (onAt 20 64)) (fun t => t.spr.secOam.toList.findIdx (· == 0xFF)) = some 31 := by decide
theorem test_secClear_out_of_range :
    field (exec .secClear (onAt 20 66)) (·.fault) = some (some (.invariantViolation (.index 32))) := by decide
theorem test_sprEval : field (exec .sprEval { onAt 20 67 with oam := [(4, 13), (5, 0x11), (6, 0x22), (7, 0x33)] })
    (fun t => (t.spr.secCount, t.spr.spr0Next, t.spr.secOam.toList.take 5)) = some (1, false, [13, 0x11, 0x22, 0x33, 0]) := by
  decide
theorem test_sprEval_overflow : field (exec .sprEval { onAt 20 191 with
    oam := [(252, 5)], regs.ctrl := 0x20, spr.secCount := 8 }) (fun t => (t.spr.secCount, t.status.overflow)) = some (8, true) ∧
    field (exec .sprEval { onAt 20 191 with oam := [(252, 4)], regs.ctrl := 0x20, spr.secCount := 8 }) (·.status.overflow)
      = some false := by decide
theorem test_sprLatch : field (exec .sprLatch { on with spr.secCount := 3, spr.spr0Next := true })
    (fun t => (t.spr.sprCount, t.spr.spr0Cur)) = some (3, true) := by decide
theorem test_sprNone : field (exec .sprNone { State.reset with spr.sprCount := 8, spr.spr0Cur := true })
    (fun t => (t.spr.sprCount, t.spr.spr0Cur)) = some (0, false) := by decide
theorem test_sprLoad : field (exec (.sprLoad 2) { on with spr.secOam := ((Vector.replicate 32 0).set 10 0x41).set 11 0x80 })
    (fun t => (t.spr.attr[2], t.spr.x[2], t.spr.x[1])) = some (0x41, 0x80, 0) := by decide
theorem test_sprAddr :
    sprAddr 0x08 20 14 0x05 0x80 = 0x1051 ∧ sprAddr 0x20 26 14 0x05 0x80 = 0x1043 ∧ sprAddr 0x28 20 14 0xFE 0 = 0x0FE6 ∧
    sprAddr 0x20 29 14 0xFF 0 = 0x1FF7 := by decide
theorem test_sprFetchLo_flipped :
    field (exec (.sprFetchLo 0) { withChr [(0x56, 0xC0)] with
        time.scanline := 20, spr.sprCount := 1, spr.secOam := ((Vector.replicate 32 0).set 0 14).set 1 0x05
        spr.attr := (Vector.replicate 8 0).set 0 0x40 }) (fun t => t.spr.patLo[0]) = some 0x03 := by decide
theorem test_sprFetchHi :
    field (exec (.sprFetchHi 0) { withChr [(0x1FFF, 0xA0)] with
        regs.ctrl := 0x20, time.scanline := 29, spr.sprCount := 1
        spr.secOam := ((Vector.replicate 32 0).set 0 14).set 1 0xFF }) (fun t => t.spr.patHi[0]) = some 0xA0 := by
  decide
theorem test_sprFetchHi_empty_slot :
    field (exec (.sprFetchHi 7) { on with spr.sprCount := 7, spr.patHi := Vector.replicate 8 0xFF })
      (fun t => (t.spr.patHi[7], t.spr.patHi[6])) = some (0, 0xFF) := by decide

/-! ### The pixel (43_pixel.md R271 and the tables of 95_test_vectors.md 2.6) -/

/-- The state of the worked example of 43_pixel.md R271. -/
def workedExample : State :=
  { onAt 30 21 with
    scroll.fineX := 2
    vram := [(0x81B, 0x16)]
    bg := { Background.zero with bgShiftLo := 0x2000, atShiftLo := 0xFF00 }
    spr := { Sprites.zero with
      sprCount := 1, spr0Cur := true
      x := (Vector.replicate 8 0).set 0 18, attr := (Vector.replicate 8 0).set 0 0x02
      patLo := (Vector.replicate 8 0).set 0 0x20, patHi := (Vector.replicate 8 0).set 0 0x20 } }

theorem test_pixel_sources :
    workedExample.bgPixel 20 = { pix := 1, pal := 1 } ∧
    workedExample.sprPixel 20 = { pix := 3, pal := 2, behind := false, isZero := true } ∧
    workedExample.sprPixel 26 = SprPixel.transparent := by decide
theorem test_pixel_hit_and_cell :
    field (exec .pixel workedExample) (fun t => (t.status.spr0Hit, t.colorBuf.map Prod.fst)) =
      some (true, [30 * 341 + 21]) := by decide
theorem test_pixel_colour :
    field (exec .pixel workedExample) (fun t => t.colorBuf) = some [(30 * 341 + 21, Config.systemPalette 0x16)] := rfl
/-- 10_state.md R44, 90_conflicts.md C1: dot 0, dot 257, scanlines 240 and 261 are outside the window; the hit is log 9. -/
theorem test_pixel_outside_the_window :
    [onAt 30 0, onAt 30 257, onAt 240 20, onAt 261 20].all (fun s =>
      field (exec .pixel s) (fun t => t.colorBuf.isEmpty) == some true) = true := by decide
theorem test_pixel_hit_outside_the_window :
    field (exec .pixel { workedExample with time.scanline := 240 }) (fun t => (t.status.spr0Hit, t.colorBuf.isEmpty)) =
      some (true, true) := by decide
theorem test_pixel_corners_of_the_window :
    field (exec .pixel (onAt 0 1)) (fun t => t.colorBuf.map Prod.fst) = some [1] ∧
    field (exec .pixel (onAt 239 256)) (fun t => t.colorBuf.map Prod.fst) = some [239 * 341 + 256] := by decide +kernel
theorem test_paletteAddr :
    paletteAddr ⟨0, 3⟩ ⟨0, 2, false, false⟩ = 0x3F00 ∧ paletteAddr ⟨0, 0⟩ ⟨2, 1, true, false⟩ = 0x3F16 ∧
    paletteAddr ⟨3, 2⟩ ⟨0, 0, false, false⟩ = 0x3F0B ∧ paletteAddr ⟨1, 1⟩ ⟨3, 2, false, false⟩ = 0x3F1B ∧
    paletteAddr ⟨1, 1⟩ ⟨3, 2, true, false⟩ = 0x3F05 := by decide

/-! ### The interrupt controller (60_exceptions.md) -/

theorem test_noneEvt : exec .noneEvt on = .next on := rfl
theorem test_clearStatus : field (exec .clearStatus { on with
    status := { vblank := true, spr0Hit := true, overflow := true }, irqLine := true, sup.nmi := true })
    (fun t => (t.status, t.irqLine, t.sup.nmi)) = some (Status.zero, true, true) := by decide
theorem test_vblankSet : field (exec .vblankSet { on with regs.ctrl := 0x80 }) (fun t => (t.status.vblank, t.irqLine))
    = some (true, true) := by decide
theorem test_vblankSet_suppressed : field (exec .vblankSet { on with
    regs.ctrl := 0x80, sup := { vbl := true, nmi := true } }) (fun t => (t.status.vblank, t.irqLine, t.sup))
    = some (false, false, Suppress.zero) := by decide

/-! ### Port operations (44_register_ports.md, 95_test_vectors.md 2.7) -/

theorem test_wrCtrl : field (exec (.wrCtrl 0 0x80) { on with scroll.t := 0x7FFF }) (fun t => (t.regs.ctrl, t.scroll.t))
    = some (0x80, 0x73FF) := by decide
theorem test_wrCtrl_nmi_on_enable :
    field (exec (.wrCtrl 0 0x80) { on with status.vblank := true }) (·.irqLine) = some false ∧
    field (exec (.wrCtrl 0 0x80) { on with status.vblank := true, cfg.nmiOnEnable := true }) (·.irqLine) = some true := by
  decide
theorem test_wrMask : field (exec (.wrMask 0 0x18) State.reset) (fun t => (t.regs.mask, t.rendering)) = some (0x18, true) := by
  decide
theorem test_wrStatus : field (exec (.wrStatus 0 0xFF) { on with status.overflow := true })
    (fun t => (t.regs.ioBus, t.statusByte)) = some (0xFF, 0x3F) := by decide
theorem test_wrOamaddr : field (exec (.wrOamaddr 0 0x40) on) (·.regs.oamAddr) = some 0x40 := by decide
theorem test_wrOamdata : field (exec (.wrOamdata 0 0x12) { on with regs.oamAddr := 0xFF })
    (fun t => (t.oam, t.regs.oamAddr)) = some ([(0xFF, 0x12)], 0) := by decide
theorem test_wrScroll_first : field (exec (.wrScroll 0 0x7D) { on with scroll.t := 0x0400 })
    (fun t => (t.scroll.t, t.scroll.fineX, t.scroll.w)) = some (0x040F, 5, true) := by decide
theorem test_wrScroll_second : field (exec (.wrScroll 0 0x5E) { on with scroll.t := 0x040F, scroll.w := true })
    (fun t => (t.scroll.t, t.scroll.w)) = some (0x656F, false) := by decide
theorem test_wrAddr_first : field (exec (.wrAddr 0 0x3F) { withV 5 with scroll.t := 0x7123 })
    (fun t => (t.scroll.t, t.scroll.w, t.scroll.v)) = some (0x3F23, true, 5) := by decide
theorem test_wrAddr_second : field (exec (.wrAddr 0 0x10) { on with scroll.t := 0x3F23, scroll.w := true })
    (fun t => (t.scroll.t, t.scroll.v, t.scroll.w)) = some (0x3F10, 0x3F10, false) := by decide
theorem test_wrData : field (exec (.wrData 0 0x2C) (withV 0x3F10)) (fun t => (t.vram, t.scroll.v))
    = some ([(0x800, 0x2C)], 0x3F11) := by decide
theorem test_wrData_cartridge : field (exec (.wrData 0 0xAA) (withV 0x5FFF))
    (fun t => (t.regs.ioBus, t.fault, t.scroll.v, t.vram))
    = some (0xAA, some (.illegalCartridgeWrite 0x1FFF), 0x5FFF, []) := by decide
theorem test_rdStatus_before_vblank : field (exec (.rdStatus 0) { onAt 241 1 with regs.ioBus := 0x80 })
    (fun t => (t.answer, t.sup.vbl, t.sup.nmi, t.regs.ioBus)) = some (some (.byte 0), true, true, 0) := by decide
theorem test_rdStatus_after_vblank :
    field (exec (.rdStatus 0) { onAt 241 3 with status.vblank := true, irqLine := true }) (fun t => (t.answer, t.irqLine))
      = some (some (.byte 0x80), false) ∧
    field (exec (.rdStatus 0) { onAt 241 4 with status.vblank := true, irqLine := true }) (fun t => (t.status.vblank, t.irqLine))
      = some (false, true) := by decide
theorem test_rdOamdata : field (exec (.rdOamdata 0) { on with regs.oamAddr := 2, oam := [(2, 0xE3)] })
    (fun t => (t.answer, t.regs.ioBus, t.regs.oamAddr)) = some (some (.byte 0xE3), 0xE3, 2) := by decide
theorem test_rdData_buffered : field (exec (.rdData 0) { withV 0x6005 with vram := [(0x005, 0x31)], regs.dataBuf := 0x77 })
    (fun t => (t.answer, t.regs.dataBuf, t.scroll.v, t.regs.ioBus)) = some (some (.byte 0x77), 0x31, 0x6006, 0x77) := by
  decide
theorem test_rdData_palette : field (exec (.rdData 0) { withV 0x3F00 with vram := [(0x700, 0x5A), (0x800, 0x21)] })
    (fun t => (t.answer, t.regs.dataBuf, t.scroll.v)) = some (some (.byte 0x21), 0x5A, 0x3F01) := by decide
theorem test_rdOpen : ∀ i ∈ [Instr.rdOpenP0 0, .rdOpenP1 0, .rdOpenP3 0, .rdOpenP5 0, .rdOpenP6 0],
    field (exec i { on with regs.ioBus := 0x1E }) (fun t => (t.answer, t.regs)) =
      some (some (.byte 0x1E), { on.regs with ioBus := 0x1E }) := by decide
theorem test_wrOamdma : field (exec (.wrOamdma 9 ((List.range 256).map (BitVec.ofNat 8))) { on with regs.oamAddr := 0xFE })
    (fun t => (t.oamAt 0xFE, t.oamAt 0xFF, t.oamAt 0, t.oamAt 0xFD, t.regs.oamAddr, t.regs.ioBus))
    = some (0, 1, 2, 0xFF, 0xFE, 0xFF) := by decide +kernel

/-! ### The step -/

theorem test_step_idle_line : field (step (onAt 240 17)) (fun t => (t.time.cycles, t.time.scanline, t.time.dot, t.bg))
    = some (1, 240, 18, Background.zero) := by decide
theorem test_step_vblank_dot : field (step (onAt 241 1)) (fun t => (t.status.vblank, t.time.dot)) = some (true, 2) := by
  decide
/-- 30_encoding.md R114: eight events run, nine are `InvariantViolation` (and none runs, log 19). -/
theorem test_step_list_of_nine :
    field (step { onAt 0 0 with cfg.tables.visible := [List.replicate 8 0x38] }) (fun t => (t.scroll.v, t.fault))
      = some (8, none) ∧
    field (step { onAt 0 0 with cfg.tables.visible := [List.replicate 9 0x38] }) (fun t => (t.scroll.v, t.time, t.fault))
      = some (0, Timing.zero, some (.invariantViolation (.overlongList 0 0))) := by decide
theorem test_withFetchWord_event : field (step ({ State.reset with regs.mask := 8 }.withFetchWord 8 0x38)) (·.scroll.v)
    = some 1 := by decide
theorem test_withFetchWord_port : field (step (State.reset.withFetchWord 24 0x02002)) (·.answer)
    = some (some (.byte 0)) := by decide
theorem test_step_refuses_other_word : step { on with moves := [.port 0x14000 [0]] } = .refused (.notAnOperation 0x14000) := rfl

/-! ### Witnesses: states and operands that meet the hypotheses of each statement -/

/-- The byte list of nine sprites at Y = 50, the other 55 hidden (95_test_vectors.md P4). -/
def nineSprites : List Byte :=
  (List.range 64).flatMap fun n => if n < 9 then [50, BitVec.ofNat 8 n, 0, BitVec.ofNat 8 (8 * n)] else List.replicate 4 0xFF

/-- Scanline 50, with the nine sprites in primary OAM. -/
def nineOnLine : State := { onAt 50 65 with oam := Memory.ofArray 0 nineSprites }

theorem witness_DecodeEncodeAgree : (Instr.wrOamdma 0 (List.replicate 256 0)).wellFormed = true ∧
    (Instr.wrScroll 0x3FF 0xFF).wellFormed = true ∧ (Instr.sprLoad 7).wellFormed = true := by decide +kernel
theorem witness_DecodedCodeIsTheOnlyOne : decode (.port 0x13FFF#17 [0xFF]) = .ok (.wrData 0x3FF 0xFF) ∧
    decode (.evt 0x9F#8) = .ok (.sprLoad 7) := by decide
/-- The lowest and the highest mirror of a row's window, and the DMA operands. -/
theorem witness_PortRowsDecodeByMatchAndMask : (0x12000 : PortWord) &&& 0x1E007 = 0x12000 ∧
    (0x13FF8 : PortWord) &&& 0x1E007 = 0x12000 ∧ (0x03FFF : PortWord) &&& 0x1E007 = 0x02007 ∧
    (List.replicate 256 (0 : Byte)).length = 256 := ⟨by decide, by decide, by decide, List.length_replicate⟩
theorem witness_StepRunsDecodedPort : { on with moves := [HostMove.port 0x12001 [0x18]] }.live ∧
    decode (.port 0x12001#17 [0x18]) = .ok (.wrMask 0 0x18) := by decide
theorem witness_StepRunsDecodedEvents : (onAt 0 1).live ∧ (onAt 0 1).moves = [] ∧
    eventList (onAt 0 1).cfg.tables 0 1 = some [0x08, 0x70, 0xB0] ∧
    decodeEvents [0x08#8, 0x70#8, 0xB0#8] = some [.fetchNt, .evalReset, .pixel] := by decide
theorem witness_StepRunsDecodedEvents_advance : { onAt 241 1 with moves := [HostMove.advance] }.live ∧
    eventList decidedTables 241 1 = some [0x68] ∧ decodeEvents [0x68#8] = some [.vblankSet] := by decide
/-- An illegal word behind an event, a position without a list, and a list of nine events. -/
theorem witness_IllegalEventWordStopsTheDot :
    on.live ∧ on.moves = [] ∧
    eventList { decidedTables with visible := [[0x38, 0xFF, 0x28]] } 0 0 = some ([0x38] ++ 0xFF :: [0x28]) ∧
    decodeEvents [0x38#8] = some [.incX] ∧ decodeEvt 0xFF#8 = .error (.reservedOpcode 0xFF) ∧
    field (runInstrs [.incX] on) (·.fault) = some none ∧
    eventList { decidedTables with visible := [[0x38]] } 0 1 = none ∧
    eventList { decidedTables with visible := [List.replicate 9 0x38] } 0 0 = some (List.replicate 9 0x38) := by decide
/-- For FetchNtReadsTileIndex, PatternFetchesReadBothPlanes (its address is an equation that any state meets),
ShiftMovesAllFourRegisters and ReloadOverwritesLowBytes; the gated forms with rendering on and off. -/
theorem witness_background : on.live ∧ on.rendering = true ∧ State.reset.live ∧ State.reset.rendering = false := by
  decide
theorem witness_FetchAtKeepsTheQuadrant : { on with vram := [(0x3FF, 0xE4)] }.live ∧
    { withV 0x7BDE with vram := [(0x3FF, 0xE4)] }.rendering = true ∧
    ({ withV 0x7BDE with vram := [(0x3FF, 0xE4)] } : State).byteOnBus (BitVec.ofNat 16
      (0x23C0 + 0x400 * ((0x7BDE : VramAddr).extractLsb' 10 2).toNat + 8 * ((coarseY 0x7BDE).toNat / 4)
        + (coarseX 0x7BDE).toNat / 4)) = 0xE4 := by decide
/-- Both clauses of `INC_X`. -/
theorem witness_IncXWrapsAndFlips : coarseX (withV 0x001F).scroll.v = 31 ∧ coarseX (withV 0x001E).scroll.v ≠ 31 ∧
    (withV 0x001F).live ∧ (withV 0x001F).rendering = true := by decide
/-- All clauses of `INC_Y`: no carry at fine Y 6, and the carry at coarse Y 28, 29, 30 and 31. -/
theorem witness_IncYWrapsAndFlips : fineY (withV 0x6000).scroll.v ≠ 7 ∧
    (fineY (withV 0x73A0).scroll.v = 7 ∧ coarseY (withV 0x73A0).scroll.v = 29) ∧
    (fineY (withV 0x73E0).scroll.v = 7 ∧ coarseY (withV 0x73E0).scroll.v = 31) ∧
    (fineY (withV 0x7380).scroll.v = 7 ∧ coarseY (withV 0x7380).scroll.v = 28) ∧
    (fineY (withV 0x73C0).scroll.v = 7 ∧ coarseY (withV 0x73C0).scroll.v = 30) ∧
    (withV 0x73A0).live ∧ (withV 0x73A0).rendering = true := by decide
theorem witness_ScrollCopiesMoveTheirFields : (withV 0x7FFF).live ∧ (withV 0x7FFF).rendering = true := by decide
theorem witness_GatedEventsDoNothingWhenOff : State.reset.live ∧ State.reset.rendering = false ∧
    (Instr.sprFetchHi 7).isGated = true ∧ Instr.fetchNt.isGated = true := by decide
/-- The first and the last byte, by an even and an odd dot, and the dots just outside. -/
theorem witness_SecClearWritesOneByte : (onAt 20 2).live ∧ (onAt 20 2).rendering = true ∧
    (onAt 20 2).time.dot.val = 2 * (0 : Fin 32).val + 2 ∧ (onAt 20 64).time.dot.val = 2 * (31 : Fin 32).val + 2 ∧
    (onAt 20 65).time.dot.val = 2 * (31 : Fin 32).val + 3 ∧
    (onAt 20 1).time.dot.val < 2 ∧ 66 ≤ (onAt 20 66).time.dot.val := by decide
/-- Sprite 0 selected into a free slot; sprite 63 met with eight slots full; a sprite just above the line. -/
theorem witness_SprEvalExaminesOneSprite :
    nineOnLine.live ∧ nineOnLine.rendering = true ∧ nineOnLine.time.dot.val = 65 + 2 * (0 : Fin 64).val ∧
    (nineOnLine.oamAt 0).toNat = 50 ∧ nineOnLine.spr.secCount.val < 8 ∧
    (onAt 239 191).time.dot.val = 65 + 2 * (63 : Fin 64).val ∧ (onAt 239 192).time.dot.val = 66 + 2 * (63 : Fin 64).val ∧
    ({ onAt 239 191 with oam := [(252, 232)], spr.secCount := 8 } : State).oamAt 252 = 232 ∧
    ({ onAt 239 191 with oam := [(252, 231)] } : State).oamAt 252 = 231 := by decide
theorem witness_SprEvalExaminesOneSprite_outside : (onAt 20 64).live ∧ (onAt 20 64).rendering = true ∧
    (onAt 20 64).time.dot.val < 65 ∧ 193 ≤ (onAt 20 193).time.dot.val := by decide
theorem witness_EvaluationKeepsTheFirstEight : nineOnLine.spr.secCount = 0 ∧
    nineOnLine.coveringSprites.length = 9 ∧ nineOnLine.coveringSprites[7]? = some 7 := by decide +kernel
/-- For SprLoadLoadsTheSlot and SpriteFetchesFillTheSlot: a live slot and an empty one. -/
theorem witness_SprLoadAndFetches : { on with spr.sprCount := 1 }.live ∧ { on with spr.sprCount := 1 }.rendering = true ∧
    (0 : BitVec 3).toNat < ({ on with spr.sprCount := 1 } : State).spr.sprCount.val ∧
    ¬ (1 : BitVec 3).toNat < ({ on with spr.sprCount := 1 } : State).spr.sprCount.val := by decide
/-- An 8-row and a 16-row sprite. -/
theorem witness_SpriteAddressFindsTheRow : (0x00 : Byte).getLsbD 5 = false ∧ (0x20 : Byte).getLsbD 5 = true := by decide
/-- The first and the last column of a slot, with and without an opaque pixel; a layer shown and not shown. -/
theorem witness_PixelSourcesAreTheRegisters :
    workedExample.layerShown 3 1 20 = true ∧ State.reset.layerShown 3 1 20 = false ∧
    (20 : Int) = workedExample.spr.x[(0 : Fin 8)].toNat + (2 : Fin 8).val ∧
    workedExample.spr.patLo[(0 : Fin 8)].getLsbD (7 - (2 : Fin 8).val) = true ∧
    workedExample.spr.patLo[(0 : Fin 8)].getLsbD (7 - (7 : Fin 8).val) = false ∧
    (17 : Int) < workedExample.spr.x[(0 : Fin 8)].toNat ∧ (workedExample.spr.x[(0 : Fin 8)].toNat : Int) + 7 < 26 := by
  decide
theorem witness_LowestOpaqueSlotWins :
    workedExample.layerShown 4 2 20 = true ∧ State.reset.layerShown 4 2 20 = false ∧
    (0 : Fin 8).val < workedExample.spr.sprCount.val ∧
    workedExample.slotPixel 20 0 = some { pix := 3, pal := 2, behind := false, isZero := true } ∧
    workedExample.slotPixel 26 0 = none := by decide
/-- The clauses of the palette address. -/
theorem witness_PaletteAddressNeverAliased :
    ((⟨0, 3⟩ : BgPixel).pix = 0 ∧ SprPixel.transparent.pix = 0) ∧
    ((⟨3, 3, true, false⟩ : SprPixel).pix ≠ 0 ∧ (⟨0, 0⟩ : BgPixel).pix = 0) ∧
    ((⟨1, 1⟩ : BgPixel).pix ≠ 0 ∧ (⟨3, 2, true, false⟩ : SprPixel).behind = true) := by decide
/-- For PixelDrawsOneCell, RenderingOffDrawsBackground (rendering off), and the statements whose one hypothesis is `live`:
SpriteCountsFollowTheirEvents, ClearStatusClearsTheFlags, VblankSetRaisesFlagAndLine, WrCtrlMovesNametableBits,
RegisterWritesStoreTheByte, OpenReadsReturnTheBus, OamPortReadsAndWrites. -/
theorem witness_live : workedExample.live ∧ State.reset.live ∧ State.reset.rendering = false := by decide
/-- The read just before the VBlank-set event, one and two dots after it, and elsewhere. -/
theorem witness_RdStatusReadsAndClears : (onAt 241 1).live ∧ (onAt 241 2).live ∧ (onAt 241 3).live ∧ (onAt 241 4).live := by
  decide
/-- For ScrollWritesFillTheirFields and AddressWritesHighThenLow: the first write and the second. -/
theorem witness_ScrollAndAddressWrites : on.live ∧ on.scroll.w = false ∧ { on with scroll.w := true }.live := by decide
/-- Both sides of 0x3F00, and the wrap of `v` above 0x4000. -/
theorem witness_DataReadsAreBuffered : (withV 0x3EFF).live ∧ 0x3EFF = (withV 0x3EFF).scroll.v.toNat % 0x4000 ∧
    0x3F00 = (withV 0x7F00).scroll.v.toNat % 0x4000 := by decide
/-- The addresses on the two sides of 0x2000. -/
theorem witness_DataWritesStoreOneCellOrFault : (withV 0x6000).live ∧ (0x2000 : Addr) = BitVec.ofNat 16 ((withV 0x6000).scroll.v.toNat % 0x4000) ∧
    0x2000 ≤ (0x2000 : Addr).toNat ∧ (0x1FFF : Addr) = BitVec.ofNat 16 ((withV 0x5FFF).scroll.v.toNat % 0x4000) ∧
    (0x1FFF : Addr).toNat < 0x2000 := by decide
theorem witness_OamDmaFillsFromOamAddr : (nineSprites).length = 256 ∧ on.live := by decide +kernel
/-- Both sides of 0x2000, and two addresses that resolve to different cells. -/
theorem witness_BusReadsAndWrites : 0x2000 ≤ (0x2000 : Addr).toNat ∧ (0x1FFF : Addr).toNat < 0x2000 ∧
    resolve on.cfg.mirroring 0x2001 ≠ resolve on.cfg.mirroring 0x2000 := by decide
/-- Both ends of the nametable window. -/
theorem witness_MirroringFoldsTheWindows : 0x2000 ≤ (0x2000 : Addr).toNat ∧ (0x3EFF : Addr).toNat < 0x3F00 := by decide
/-- The four calls, on both sides of 0x8000. -/
theorem witness_MapperCpuSide : on.live ∧ on.cfg.prgSize = 0x4000 ∧
    { on with moves := [HostMove.mapperReadCpu 0x8000] }.moves = .mapperReadCpu 0x8000 :: [] ∧
    { on with moves := [HostMove.mapperWriteCpu 0x7FFF 1] }.moves = .mapperWriteCpu 0x7FFF 1 :: [] ∧
    0x8000 ≤ (0x8000 : Addr).toNat ∧ (0x7FFF : Addr).toNat < 0x8000 := by decide
/-- The last dot of the frame, the last but one of an odd frame, and dot 0. -/
theorem witness_EveryDotAdvancesThePosition : (onAt 261 340).live ∧ (onAt 261 340).runsDecidedTables ∧
    (onAt 261 340).moves = [] ∧ (onAt 261 340).frameDot = 89341 ∧
    ({ onAt 261 339 with time.oddFrame := true } : State).frameDot = 89340 ∧ (onAt 261 339).rendering = true ∧
    (onAt 0 0).frameDot ≠ 89341 := ⟨rfl, rfl, rfl, by decide, by decide, by decide, by decide⟩
/-- An even frame, an odd one, and an odd one that is not shortened. -/
theorem witness_FrameLengthAlternates : on.live ∧ on.runsDecidedTables ∧ on.moves = [] ∧ on.frameDot = 0 ∧
    on.cfg.skipRequiresRendering = false ∧ on.time.oddFrame = false ∧
    ({ on with time.oddFrame := true } : State).frameDot = 0 ∧
    { State.reset with time.oddFrame := true, cfg.skipRequiresRendering := true }.rendering = false :=
  ⟨rfl, rfl, rfl, rfl, rfl, rfl, rfl, rfl⟩
theorem witness_EventsKeepPortState : Instr.vblankSet.isEvent = true ∧ ∃ t, exec .vblankSet on = .next t := ⟨rfl, _, rfl⟩
theorem witness_PortsKeepPipelines : (Instr.rdStatus 0).isEvent = false ∧ ∃ t, exec (.rdStatus 0) on = .next t := ⟨rfl, _, rfl⟩
theorem witness_PortsCannotSeePipelines : (Instr.wrMask 0 0).isEvent = false ∧ ∃ t, exec (.wrMask 0 0) on = .next t :=
  ⟨rfl, _, rfl⟩
theorem witness_RecordedFaultIsFatal :
    { on with fault := some (.illegalCartridgeWrite 0x1000) }.fault = some (.illegalCartridgeWrite 0x1000) ∧
    (Instr.wrMask 0 0x1E).wellFormed = true := by decide
theorem witness_OnlyDataWritesFault :
    { withV 0x1000 with moves := [HostMove.port 0x12007 [0xAA]] }.runsDecidedTables ∧
    field (step { withV 0x1000 with moves := [.port 0x12007 [0xAA]] }) (·.fault)
      = some (some (.illegalCartridgeWrite 0x1000)) := ⟨rfl, by decide⟩

/-- A session with a cell of each memory listed, sprite 0 in the one filled slot, and a data write waiting. -/
def busySession : State :=
  { withV 0x2108 with
    oam := [(0, 50), (255, 1)], vram := [(0x108, 0x55), (0x81F, 0x16)], colorBuf := [(342, ⟨1, 2, 3⟩)]
    bg.atLatch := 3
    spr.secCount := 1, spr.spr0Next := true, spr.sprCount := 1, spr.spr0Cur := true
    moves := [.port 0x12007 [0x66]] }

/-- Its one written cell is (1, 1). -/
theorem busySession_window : ∀ sc d, inVisibleWindow sc d = false →
    Memory.read? busySession.colorBuf (colourCell sc d) = none := by
  intro sc d h
  simp only [inVisibleWindow, Bool.and_eq_false_iff, decide_eq_false_iff_not] at h
  have : colourCell sc d ≠ 342 := by unfold colourCell; omega
  simp [busySession, Memory.read?, this]
theorem witness_StepKeepsSessionInvariant : Inv busySession ∧ ∃ t, step busySession = .next t :=
  ⟨{ oam := by decide, vram := by decide, colorBuf := by decide, window := busySession_window, chr := rfl, prg := rfl,
     prgSize := .inl rfl, tables := decidedTables_valid, atLatch := by decide, slotZeroNext := by decide,
     slotZeroCur := by decide, noConfigError := fun _ h => nomatch h }, _, rfl⟩
theorem witness_SuppressionLastsOneDot :
    { onAt 241 1 with sup := { vbl := true, nmi := true } }.runsDecidedTables ∧
    SuppressionOnlyAtRace { onAt 241 1 with sup := { vbl := true, nmi := true } } ∧
    field (step { onAt 241 1 with sup := { vbl := true, nmi := true } }) (·.status.vblank) = some false :=
  ⟨rfl, fun _ => ⟨rfl, rfl⟩, by decide⟩
theorem witness_ResetZeroesTheEngine : { busySession with moves := [HostMove.reset] }.live ∧
    { busySession with moves := [HostMove.reset] }.moves = .reset :: [] := by decide
/-- A valid configuration and an invalid one. -/
theorem witness_ConstructionValidatesTheCartridge :
    ((List.replicate 0x4000 (0 : Byte)).length = 0x4000 ∧ (List.replicate 0x2000 (0 : Byte)).length = 0x2000 ∧
      tablesValid decidedTables = true) ∧
    (List.replicate 0x2000 (0 : Byte)).length ≠ 0x4000 ∧ (List.replicate 0x2000 (0 : Byte)).length ≠ 0x8000 :=
  ⟨⟨List.length_replicate, List.length_replicate, decidedTables_valid⟩, by rw [List.length_replicate]; decide,
    by rw [List.length_replicate]; decide⟩
theorem witness_QueriesChangeNoState : { on with moves := [HostMove.renderingEnabled] }.live ∧
    { on with moves := [HostMove.irqClear] }.moves = .irqClear :: [] ∧
    { on with moves := [HostMove.irqIsAsserted] }.moves = .irqIsAsserted :: [] ∧
    { on with moves := [HostMove.readColour 239 256] }.moves = .readColour 239 256 :: [] := by decide

end Sys2Proof.Tests
end

section
/-! Laws of single operations: the data write by where its address resolves (44_register_ports.md R297, 20_memory.md
R77), and the DMA write, the one operation whose terms are not all well formed (R300, log 12). -/

namespace Sys2Proof.Machine

/-- A data write to a cell of `vram` stores the byte there and steps the address. -/
theorem writeData_of_cell {s : State} {k : Nat} (h : resolve s.cfg.mirroring (dataAddr s.scroll.v) = .cell k)
    (val : Byte) : writeData val s = ((s.driveBus val).setVram k val).stepDataAddr := by
  simp [writeData, State.busWrite, h]

/-- A data write to the mapper's side of the bus drives `io_bus` and is refused. -/
theorem writeData_of_mapper {s : State} {a : Addr} (h : resolve s.cfg.mirroring (dataAddr s.scroll.v) = .mapper a)
    (val : Byte) : writeData val s = (s.driveBus val).raise (.illegalCartridgeWrite a) := by
  simp [writeData, State.busWrite, h, State.mapperWritePpu]

/-- A DMA write with its 256 bytes runs while no fault is recorded. -/
theorem exec_wrOamdma {page : Byte} {data : List Byte} (h : (Instr.wrOamdma page data).wellFormed = true) (s : State) :
    exec (.wrOamdma page data) s = whileLive (writeOamDma data) s :=
  if_pos (by simpa [Instr.wellFormed] using h)

/-- An operation with a next state is one the block has. -/
theorem wellFormed_of_exec_next {i : Instr} {s t : State} (h : exec i s = .next t) : i.wellFormed = true := by
  cases i with
  | wrOamdma page data =>
    simp only [exec, execWrOamdma] at h
    split at h
    · simpa [Instr.wellFormed]
    · cases h
  | _ => rfl

end Sys2Proof.Machine
end

section
/-! The session invariant: what it speaks of, one rule for each update that touches that, and that every operation,
every dot and every host move keeps it. -/

namespace Sys2Proof.Machine

variable {s t : State}

/-- All that `Inv` speaks of. -/
def State.invView (s : State) :
    Cells Byte × Cells Byte × Cells Rgb × Session × Byte × Fin 9 × Bool × Fin 9 × Bool × Option FaultInfo :=
  (s.oam, s.vram, s.colorBuf, s.cfg, s.bg.atLatch, s.spr.secCount, s.spr.spr0Next, s.spr.sprCount, s.spr.spr0Cur,
    s.fault)

/-- The class of a fault that construction alone raises (60_exceptions.md R350). -/
def FaultInfo.isConfigError : FaultInfo → Bool
  | .configError _ => true
  | .invariantViolation _ | .illegalCartridgeWrite _ => false

/-! ### The rules: what touches nothing of the invariant, and one for each update that touches it -/

/-- An update of what the invariant does not speak of keeps it; `rfl` sees that a written-out update is one. -/
theorem Inv.frame (hs : Inv s) (h : t.invView = s.invView := by rfl) : Inv t := by
  simp only [State.invView, Prod.mk.injEq] at h
  obtain ⟨hoam, hvram, hbuf, hcfg, hat, hsec, hnext, hspr, hcur, hfault⟩ := h
  obtain ⟨oam, vram, colorBuf, window, chr, prg, prgSize, tables, atLatch, zeroNext, zeroCur, noConfigError⟩ := hs
  constructor <;> simpa only [hoam, hvram, hbuf, hcfg, hat, hsec, hnext, hspr, hcur, hfault]

theorem Inv.setOam (hs : Inv s) {k : Nat} (hk : k < 256) (b : Byte) : Inv (s.setOam k b) :=
  { hs with oam := Memory.wf_write hs.oam hk b }

theorem Inv.setVram (hs : Inv s) {k : Nat} (hk : k < 2080) (b : Byte) : Inv (s.setVram k b) :=
  { hs with vram := Memory.wf_write hs.vram hk b }

/-- A cell of the visible window may be written: no position outside it has the same cell. -/
theorem Inv.setColour (hs : Inv s) {sc : Fin 262} {d : Fin 341} (hvis : inVisibleWindow sc d = true) (c : Rgb) :
    Inv (s.setColour sc d c) :=
  { hs with
    colorBuf := Memory.wf_write hs.colorBuf (colourCell_lt sc d) c
    window := by
      intro sc' d' hout
      have hne : colourCell sc' d' ≠ colourCell sc d := by
        intro e
        obtain ⟨rfl, rfl⟩ := colourCell_inj e
        simp [hvis] at hout
      rw [State.setColour_colorBuf, Memory.read?_write_other _ hne]
      exact hs.window sc' d' hout }

theorem Inv.storePixel (hs : Inv s) (c : Rgb) : Inv (s.storePixel c) := by
  cases hw : inVisibleWindow s.time.scanline s.time.dot with
  | true => rw [storePixel_of_visible hw]; exact hs.setColour hw c
  | false => rw [storePixel_of_hidden hw]; exact hs

theorem Inv.setAtLatch (hs : Inv s) {x : Byte} (hx : x.toNat ≤ 3) : Inv { s with bg.atLatch := x } :=
  { hs with atLatch := hx }

/-- New sprite state keeps the invariant if sprite 0 is in a filled slot, in both counts. -/
theorem Inv.setSpr (hs : Inv s) {spr : Sprites} (hnext : spr.spr0Next = true → spr.secCount ≠ 0)
    (hcur : spr.spr0Cur = true → spr.sprCount ≠ 0) : Inv { s with spr := spr } :=
  { hs with slotZeroNext := hnext, slotZeroCur := hcur }

theorem Inv.setFault (hs : Inv s) {f : FaultInfo} (hf : f.isConfigError = false) : Inv { s with fault := some f } :=
  { hs with noConfigError := by rintro c ⟨⟩; cases hf }

theorem Inv.raise (hs : Inv s) {f : FaultInfo} (hf : f.isConfigError = false) : Inv (s.raise f) := by
  cases h : s.fault with
  | none => rw [State.raise_of_none h]; exact hs.setFault hf
  | some g => rw [State.raise_of_some h]; exact hs

theorem inv_withBusByte {a : Addr} {k : Byte → State} (hk : ∀ b, Inv (k b)) : Inv (s.withBusByte a k) := by
  rw [withBusByte_eq]; exact hk _

theorem Inv.fillOam (hs : Inv s) (start : Byte) (data : List Byte) : Inv (s.fillOam start data) := by
  induction data generalizing s start with
  | nil => exact hs
  | cons b rest ih => exact ih (hs.setOam start.isLt b) (start + 1)

/-! ### The events that need more than one of the rules, or a fact of their own -/

/-- `FETCH_AT` keeps two bits (10_state.md R32). -/
theorem atSelect_le (v : VramAddr) (b : Byte) : (atSelect v b).toNat ≤ 3 := by
  rw [atSelect, BitVec.toNat_and]; exact Nat.and_le_right

theorem inv_fetchAt (hs : Inv s) : Inv (fetchAt s) :=
  inv_withBusByte fun b => hs.setAtLatch (atSelect_le s.scroll.v b)

theorem inv_drawPixel (hs : Inv s) : Inv (drawPixel s) :=
  inv_withBusByte fun _ => Inv.storePixel hs.frame _

theorem inv_secClear (hs : Inv s) : Inv (secClear s) := by
  simp only [secClear]
  split
  · exact hs.frame
  · exact hs.raise rfl

/-- Sprite 0 comes into secondary OAM together with a raised count. -/
theorem inv_evalSprite (hs : Inv s) (n : Nat) : Inv (evalSprite n s) := by
  unfold evalSprite
  split
  · split
    · exact hs.setSpr (fun _ => Fin.ne_of_val_ne (Nat.succ_ne_zero _)) hs.slotZeroCur
    · exact hs.frame
  · exact hs

theorem inv_sprEval (hs : Inv s) : Inv (sprEval s) := by
  simp only [sprEval]
  split
  · exact inv_evalSprite hs _
  · exact hs.raise rfl

theorem inv_sprFetchLo (hs : Inv s) (slot : BitVec 3) : Inv (sprFetchLo slot s) := by
  unfold sprFetchLo
  split
  · exact inv_withBusByte fun _ => hs.frame
  · exact hs.frame

theorem inv_sprFetchHi (hs : Inv s) (slot : BitVec 3) : Inv (sprFetchHi slot s) := by
  unfold sprFetchHi
  split
  · exact inv_withBusByte fun _ => hs.frame
  · exact hs.frame

/-! ### The port operations of that kind -/

theorem inv_writeOamData (hs : Inv s) (val : Byte) : Inv (writeOamData val s) :=
  (hs.setOam s.regs.oamAddr.isLt val).frame

theorem inv_writeOamDma (hs : Inv s) (data : List Byte) : Inv (writeOamDma data s) :=
  (hs.fillOam s.regs.oamAddr data).frame

theorem inv_writeScroll (hs : Inv s) (val : Byte) : Inv (writeScroll val s) := by
  unfold writeScroll
  split <;> exact hs.frame

theorem inv_writeAddr (hs : Inv s) (val : Byte) : Inv (writeAddr val s) := by
  unfold writeAddr
  split <;> exact hs.frame

theorem inv_writeData (hs : Inv s) (val : Byte) : Inv (writeData val s) := by
  have hbus : Inv (s.driveBus val) := hs.frame
  cases h : resolve s.cfg.mirroring (dataAddr s.scroll.v) with
  | cell k => rw [writeData_of_cell h]; exact (hbus.setVram (resolve_cell_lt h) val).frame
  | mapper a => rw [writeData_of_mapper h]; exact hbus.raise rfl

theorem inv_readData (hs : Inv s) : Inv (readData s) := by
  simp only [readData]
  split
  · exact inv_withBusByte fun _ => hs.frame
  · exact inv_withBusByte fun _ => inv_withBusByte fun _ => hs.frame

/-! ### Every operation -/

/-- An operation on the state that keeps the invariant. -/
def KeepsInv (op : State → State) : Prop := ∀ ⦃s⦄, Inv s → Inv (op s)

theorem whenRendering_keepsInv {op : State → State} (hop : KeepsInv op) : KeepsInv (whenRendering op) := by
  intro s hs
  unfold whenRendering
  split
  · exact hop hs
  · exact hs

/-- What an operation runs while no fault is recorded keeps the invariant, by the rule of the update it makes. -/
theorem exec_keepsInv {i : Instr} (hi : i.wellFormed = true) :
    ∃ op, (∀ s, exec i s = whileLive op s) ∧ KeepsInv op := by
  cases i with
  | fetchNt | fetchPtLo | fetchPtHi =>
    exact ⟨_, fun _ => rfl, whenRendering_keepsInv fun _ hs => inv_withBusByte fun _ => hs.frame⟩
  | fetchAt => exact ⟨_, fun _ => rfl, whenRendering_keepsInv fun _ => inv_fetchAt⟩
  | shift | reload | incX | incY | copyX | copyY | oamaddrClear | sprLoad =>
    exact ⟨_, fun _ => rfl, whenRendering_keepsInv fun _ hs => hs.frame⟩
  | evalReset => exact ⟨_, fun _ => rfl, whenRendering_keepsInv fun _ hs => hs.setSpr (by simp) hs.slotZeroCur⟩
  | secClear => exact ⟨_, fun _ => rfl, whenRendering_keepsInv fun _ => inv_secClear⟩
  | sprEval => exact ⟨_, fun _ => rfl, whenRendering_keepsInv fun _ => inv_sprEval⟩
  | sprLatch =>
    exact ⟨_, fun _ => rfl, whenRendering_keepsInv fun _ hs => hs.setSpr hs.slotZeroNext hs.slotZeroNext⟩
  | sprNone => exact ⟨_, fun _ => rfl, fun _ hs => hs.setSpr hs.slotZeroNext (by simp)⟩
  | sprFetchLo slot => exact ⟨_, fun _ => rfl, whenRendering_keepsInv fun _ hs => inv_sprFetchLo hs slot⟩
  | sprFetchHi slot => exact ⟨_, fun _ => rfl, whenRendering_keepsInv fun _ hs => inv_sprFetchHi hs slot⟩
  | pixel => exact ⟨_, fun _ => rfl, fun _ => inv_drawPixel⟩
  | wrOamdata _ val => exact ⟨_, fun _ => rfl, fun _ hs => inv_writeOamData hs val⟩
  | wrScroll _ val => exact ⟨_, fun _ => rfl, fun _ hs => inv_writeScroll hs val⟩
  | wrAddr _ val => exact ⟨_, fun _ => rfl, fun _ hs => inv_writeAddr hs val⟩
  | wrData _ val => exact ⟨_, fun _ => rfl, fun _ hs => inv_writeData hs val⟩
  | rdData => exact ⟨_, fun _ => rfl, fun _ => inv_readData⟩
  | wrOamdma _ data => exact ⟨_, exec_wrOamdma hi, fun _ hs => inv_writeOamDma hs data⟩
  | noneEvt | clearStatus | vblankSet | wrCtrl | wrMask | wrStatus | wrOamaddr
  | rdStatus | rdOamdata | rdOpenP0 | rdOpenP1 | rdOpenP3 | rdOpenP5 | rdOpenP6 =>
    exact ⟨_, fun _ => rfl, fun _ hs => hs.frame⟩

theorem inv_exec {i : Instr} (h : exec i s = .next t) (hs : Inv s) : Inv t := by
  obtain ⟨op, hexec, hop⟩ := exec_keepsInv (wellFormed_of_exec_next h)
  rw [hexec] at h
  obtain ⟨-, rfl⟩ := whileLive_next h
  exact hop hs

/-! ### A dot and a host move -/

/-- A legal word runs its event, an illegal one records a fault of another class. -/
theorem inv_executeWord {w : EvtWord} (h : executeWord w s = .next t) (hlive : s.fault = none) (hs : Inv s) :
    Inv t := by
  obtain ⟨i, -, -, he⟩ | ⟨e, -, he⟩ := executeWord_cases hlive w <;> rw [he] at h
  · exact inv_exec h hs
  · cases h
    exact hs.setFault rfl

theorem inv_runEvents {words : List EvtWord} (h : runEvents words s = .next t) (hlive : s.fault = none) (hs : Inv s) :
    Inv t :=
  runEvents_induct (P := fun a b => Inv a → Inv b) (fun _ => id) (fun hab hbc => hbc ∘ hab) words s t hlive
    (fun _ _ _ _ ha he => inv_executeWord he ha) h hs

/-- The fault of a position without a list that can run is no `ConfigError`. -/
theorem positionList_error_isConfigError {f : FaultInfo} (h : s.positionList = .error f) : f.isConfigError = false := by
  obtain ⟨-, rfl⟩ | ⟨words, -, -, rfl⟩ := positionList_eq_error.mp h <;> rfl

theorem inv_advanceOneDot (h : advanceOneDot s = .next t) (hlive : s.fault = none) (hs : Inv s) : Inv t := by
  obtain ⟨words, u, -, hu, ⟨-, he⟩ | ⟨f, -, he⟩⟩ | ⟨f, hf, he⟩ := advanceOneDot_cases hlive <;> rw [he] at h <;> cases h
  · exact (inv_runEvents hu hlive hs).frame
  · exact inv_runEvents hu hlive hs
  · exact hs.setFault (positionList_error_isConfigError hf)

/-- The CPU side's read answers, or records an `InvariantViolation` (45_mapper.md R340). -/
theorem inv_readCpuSide (hs : Inv s) (a : Addr) : Inv (readCpuSide a s) := by
  unfold readCpuSide State.mapperReadCpu
  cases translateCpu s.cfg.prgSize a with
  | prg k => exact hs.frame
  | chr _ | invalid => exact hs.raise rfl

/-- The CPU side's write records a fault of another class (45_mapper.md R341). -/
theorem mapperWriteCpuFault_isConfigError (a : Addr) : (mapperWriteCpuFault a).isConfigError = false := by
  unfold mapperWriteCpuFault
  split <;> rfl

/-- `Reset` empties the sprite slots and clears `at_latch` (10_state.md R58). -/
theorem inv_resetEngine (hs : Inv s) : Inv (resetEngine s) :=
  { hs with
    atLatch := Nat.zero_le 3
    slotZeroNext := fun h => nomatch h
    slotZeroCur := fun h => nomatch h }

theorem inv_perform {m : HostMove} (h : perform m s = .next t) (hs : Inv s) : Inv t := by
  obtain ⟨hlive, ⟨-, hadv⟩ | ⟨_, _, _, -, -, hexec⟩ | ⟨-, rfl⟩ | ⟨-, rfl⟩ | ⟨-, rfl⟩ | ⟨-, rfl⟩ | ⟨_, _, -, rfl⟩ |
    ⟨a, -, rfl⟩ | ⟨a, _, -, rfl⟩⟩ := perform_cases h
  · exact inv_advanceOneDot hadv hlive hs
  · exact inv_exec hexec hs
  · exact inv_resetEngine hs
  · exact hs.frame
  · exact hs.frame
  · exact hs.frame
  · exact hs.frame
  · exact inv_readCpuSide hs a
  · exact hs.raise (mapperWriteCpuFault_isConfigError a)

theorem inv_step (h : step s = .next t) (hs : Inv s) : Inv t := by
  obtain ⟨hlive, ⟨-, hadv⟩ | ⟨m, rest, -, hm⟩⟩ := step_cases h
  · exact inv_advanceOneDot hadv hlive hs
  · exact inv_perform hm hs.frame

/-- Settles O55: a step is one dot or one host move, and each is made of updates that keep the invariant. -/
theorem stepKeepsSessionInvariant : Obligations.StepKeepsSessionInvariant :=
  fun _ _ hs h => inv_step h hs

end Sys2Proof.Machine
end

section
/-! The port operations read nothing of the pipelines: each commutes with putting other pipelines into the state. -/

namespace Sys2Proof.Machine

/-- The state with other pipelines and another colour buffer (10_state.md R31 to R39, R44). -/
def State.withPipelines (s : State) (bg : Background) (spr : Sprites) (cells : Cells Rgb) : State :=
  { s with bg := bg, spr := spr, colorBuf := cells }

/-- An operation that neither reads nor writes the pipelines or the colour buffer. -/
def PipelineBlind (op : State → State) : Prop :=
  ∀ (s : State) (bg : Background) (spr : Sprites) (cells : Cells Rgb),
    op (s.withPipelines bg spr cells) = (op s).withPipelines bg spr cells

theorem raise_pipelineBlind (f : FaultInfo) : PipelineBlind (·.raise f) := by
  intro s bg spr cells
  cases h : s.fault with
  | none => simp only [State.raise_of_none h, State.raise_of_none (s := s.withPipelines bg spr cells) h]; rfl
  | some g => simp only [State.raise_of_some h, State.raise_of_some (s := s.withPipelines bg spr cells) h]

theorem fillOam_pipelineBlind (data : List Byte) : ∀ start, PipelineBlind (·.fillOam start data) := by
  induction data with
  | nil => exact fun _ _ _ _ _ => rfl
  | cons b rest ih => exact fun start s => ih (start + 1) (s.setOam start.toNat b)

theorem writeOamDma_pipelineBlind (data : List Byte) : PipelineBlind (writeOamDma data) := fun s bg spr cells =>
  congrArg (·.driveBus (data.getLastD s.regs.ioBus)) (fillOam_pipelineBlind data s.regs.oamAddr s bg spr cells)

theorem writeScroll_pipelineBlind (val : Byte) : PipelineBlind (writeScroll val) := by
  intro s bg spr cells
  cases h : s.scroll.w <;> simp [writeScroll, State.withPipelines, h]

theorem writeAddr_pipelineBlind (val : Byte) : PipelineBlind (writeAddr val) := by
  intro s bg spr cells
  cases h : s.scroll.w <;> simp [writeAddr, State.withPipelines, h]

theorem writeData_pipelineBlind (val : Byte) : PipelineBlind (writeData val) := by
  intro s bg spr cells
  cases h : resolve s.cfg.mirroring (dataAddr s.scroll.v) with
  | cell k => rw [writeData_of_cell h, writeData_of_cell (s := s.withPipelines bg spr cells) h]; rfl
  | mapper a =>
    rw [writeData_of_mapper h, writeData_of_mapper (s := s.withPipelines bg spr cells) h]
    exact raise_pipelineBlind _ (s.driveBus val) bg spr cells

theorem readData_pipelineBlind : PipelineBlind readData := by
  intro s bg spr cells
  by_cases h : (dataAddr s.scroll.v).toNat < 0x3F00 <;>
    simp only [readData, State.withPipelines, h, if_true, if_false, withBusByte_eq] <;> rfl

/-- A blind operation with a next state has, with other pipelines, the same one with those pipelines. -/
theorem whileLive_next_withPipelines {op : State → State} (hop : PipelineBlind op) {s t : State}
    (h : whileLive op s = .next t) (bg : Background) (spr : Sprites) (cells : Cells Rgb) :
    whileLive op (s.withPipelines bg spr cells) = .next (t.withPipelines bg spr cells) := by
  obtain ⟨hlive, rfl⟩ := whileLive_next h
  rw [whileLive_of_live (s := s.withPipelines bg spr cells) hlive, hop]

/-- What a port operation runs while no fault is recorded is blind to the pipelines. -/
theorem exec_pipelineBlind {i : Instr} (hport : i.isEvent = false) (hi : i.wellFormed = true) :
    ∃ op, (∀ s, exec i s = whileLive op s) ∧ PipelineBlind op := by
  cases i with
  | wrScroll _ val => exact ⟨_, fun _ => rfl, writeScroll_pipelineBlind val⟩
  | wrAddr _ val => exact ⟨_, fun _ => rfl, writeAddr_pipelineBlind val⟩
  | wrData _ val => exact ⟨_, fun _ => rfl, writeData_pipelineBlind val⟩
  | rdData => exact ⟨_, fun _ => rfl, readData_pipelineBlind⟩
  | wrOamdma _ data => exact ⟨_, exec_wrOamdma hi, writeOamDma_pipelineBlind data⟩
  | wrCtrl | wrMask | wrStatus | wrOamaddr | wrOamdata | rdStatus | rdOamdata | rdOpenP0 | rdOpenP1 | rdOpenP3
  | rdOpenP5 | rdOpenP6 => exact ⟨_, fun _ => rfl, fun _ _ _ _ => rfl⟩
  | _ => cases hport

/-- Settles O52: a port operation runs an operation that commutes with a change of the pipelines. -/
theorem portsCannotSeePipelines : Obligations.PortsCannotSeePipelines := by
  intro i s t bg spr cells hport h
  obtain ⟨op, hexec, hop⟩ := exec_pipelineBlind hport (wellFormed_of_exec_next h)
  rw [hexec] at h ⊢
  exact whileLive_next_withPipelines hop h bg spr cells

end Sys2Proof.Machine
end

section
/-! The address map of the PPU bus (20_memory.md R72 to R79): the fetch addresses as sums, the two mirrorings as
remainders, and a bus access by where its address resolves. -/

namespace Sys2Proof.Machine

/-! ### Fetch addresses as sums (41_background.md R193 to R195, 42_sprites.md R234) -/

theorem ntAddr_toNat (v : VramAddr) : (ntAddr v).toNat = 0x2000 + v.toNat % 0x1000 := by
  have hsum : 0x2000 + v.toNat % 0x1000 = 0x2000 ||| v.toNat % 0x1000 :=
    Nat.two_pow_add_eq_or_of_lt (i := 12) (Nat.mod_lt _ (by decide)) 2
  rw [ntAddr, zext16, BitVec.toNat_or, BitVec.toNat_setWidth_of_le (by decide), BitVec.extractLsb'_toNat, hsum]
  rfl

/-- Area 0x3C0 of a nametable, by the nametable, the row and the column of the byte. -/
theorem attributeByte_eq : ∀ (nt : BitVec 2) (row col : BitVec 3),
    (0x23C0 : Addr) ||| (zext16 nt <<< 10) ||| (zext16 row <<< 3) ||| zext16 col =
      BitVec.ofNat 16 (0x23C0 + 0x400 * nt.toNat + 8 * row.toNat + col.toNat) := by
  decide +kernel

/-- Masking a shifted register with a run of ones cuts a field out of it and places it under the mask. -/
theorem shiftRight_and_mask (v : VramAddr) (sh lo len : Nat) :
    (zext16 v >>> sh) &&& ((BitVec.allOnes len).setWidth 16 <<< lo) = zext16 (v.extractLsb' (sh + lo) len) <<< lo := by
  apply BitVec.eq_of_getLsbD_eq
  intro i hi
  simp only [zext16, BitVec.getLsbD_and, BitVec.getLsbD_ushiftRight, BitVec.getLsbD_shiftLeft, BitVec.getLsbD_setWidth,
    BitVec.getLsbD_allOnes, BitVec.getLsbD_extractLsb']
  by_cases hlo : lo ≤ i
  · have hbit : sh + lo + (i - lo) = sh + i := by omega
    have hin : i - lo < 16 := by omega
    by_cases h16 : sh + i < 16
    · simp [hi, hbit, hin, h16, Nat.not_lt.mpr hlo, Bool.and_comm]
    · simp [hi, hbit, hin, h16, BitVec.getLsbD_of_ge v (sh + i) (by omega)]
  · simp [Nat.lt_of_not_le hlo]

/-- `FETCH_AT` presents the byte of nametable `v[11:10]`, row `coarse_y[4:2]` and column `coarse_x[4:2]`. -/
theorem atAddr_eq_fields (v : VramAddr) :
    atAddr v = (0x23C0 : Addr) ||| (zext16 (v.extractLsb' 10 2) <<< 10) ||| (zext16 (v.extractLsb' 7 3) <<< 3)
      ||| zext16 (v.extractLsb' 2 3) := by
  have hnt : zext16 v &&& (0x0C00 : Addr) = zext16 (v.extractLsb' 10 2) <<< 10 := shiftRight_and_mask v 0 10 2
  have hrow : zext16 v >>> 4 &&& (0x38 : Addr) = zext16 (v.extractLsb' 7 3) <<< 3 := shiftRight_and_mask v 4 3 3
  have hcol : zext16 v >>> 2 &&& (0x07 : Addr) = zext16 (v.extractLsb' 2 3) := by
    simpa using shiftRight_and_mask v 2 0 3
  rw [← hnt, ← hrow, ← hcol]
  rfl

theorem atAddr_toNat (v : VramAddr) :
    (atAddr v).toNat = 0x23C0 + 0x400 * (v.extractLsb' 10 2).toNat + 8 * ((coarseY v).toNat / 4)
      + (coarseX v).toNat / 4 := by
  have hrow : (v.extractLsb' 7 3).toNat = (coarseY v).toNat / 4 := by
    simp only [coarseY, BitVec.extractLsb'_toNat, Nat.shiftRight_eq_div_pow]
    omega
  have hcol : (v.extractLsb' 2 3).toNat = (coarseX v).toNat / 4 := by
    simp only [coarseX, BitVec.extractLsb'_toNat, Nat.shiftRight_eq_div_pow]
    omega
  rw [atAddr_eq_fields, attributeByte_eq, hrow, hcol, BitVec.toNat_ofNat, Nat.mod_eq_of_lt]
  have := (v.extractLsb' 10 2).isLt
  have := (coarseY v).isLt
  have := (coarseX v).isLt
  omega

theorem tileRow_toNat (table : Bool) (tile : Byte) (row : BitVec 3) :
    ((zext16 (BitVec.ofBool table) <<< 12) ||| (zext16 tile <<< 4) ||| zext16 row).toNat =
      0x1000 * (if table = true then 1 else 0) + 16 * tile.toNat + row.toNat := by
  rw [tileRow_eq, BitVec.toNat_ofNat, Nat.mod_eq_of_lt]
  have := tile.isLt
  have := row.isLt
  split <;> omega

theorem patternAddr_toNat (ctrl nt : Byte) (v : VramAddr) :
    (patternAddr ctrl nt v).toNat =
      0x1000 * (if ctrl.getLsbD 4 = true then 1 else 0) + 16 * nt.toNat + (fineY v).toNat :=
  tileRow_toNat _ _ _

/-- A fetch for an 8-row sprite presents some row of its tile. -/
theorem sprAddr_toNat_short {ctrl : Byte} (h : ctrl.getLsbD 5 = false) (sc : Nat) (y tile attr : Byte) :
    ∃ row : BitVec 3, (sprAddr ctrl sc y tile attr).toNat =
      0x1000 * (if ctrl.getLsbD 3 = true then 1 else 0) + 16 * tile.toNat + row.toNat := by
  simp only [sprAddr, h, Bool.false_eq_true, if_false]
  exact ⟨_, tileRow_toNat _ _ _⟩

/-- A fetch for a 16-row sprite presents some row of its two tiles. -/
theorem sprAddr_toNat_tall {ctrl : Byte} (h : ctrl.getLsbD 5 = true) (sc : Nat) (y tile attr : Byte) :
    ∃ row : BitVec 4, (sprAddr ctrl sc y tile attr).toNat =
      0x1000 * (tile.toNat % 2) + 32 * (tile.toNat / 2) + 16 * (row.toNat / 8) + row.toNat % 8 := by
  simp only [sprAddr, h, if_true]
  exact ⟨_, tallRow_toNat _ _⟩

/-! ### The window of each fetch -/

theorem patternAddr_add_eight_lt (ctrl nt : Byte) (v : VramAddr) : (patternAddr ctrl nt v).toNat + 8 < 0x2000 := by
  have := patternAddr_toNat ctrl nt v
  have := nt.isLt
  have := (fineY v).isLt
  split at * <;> omega

theorem sprAddr_add_eight_lt (ctrl : Byte) (sc : Nat) (y tile attr : Byte) :
    (sprAddr ctrl sc y tile attr).toNat + 8 < 0x2000 := by
  have htile := tile.isLt
  cases h : ctrl.getLsbD 5 with
  | false =>
    obtain ⟨row, hrow⟩ := sprAddr_toNat_short h sc y tile attr
    have := row.isLt
    split at * <;> omega
  | true =>
    obtain ⟨row, hrow⟩ := sprAddr_toNat_tall h sc y tile attr
    have := row.isLt
    omega

/-- Settles O25: each address is a sum of bounded fields. -/
theorem fetchAddressesStayInTheirWindows : Obligations.FetchAddressesStayInTheirWindows := by
  refine ⟨fun v => ?_, fun ctrl nt v => ?_, fun ctrl y tile attr sc => sprAddr_add_eight_lt ctrl sc y tile attr⟩
  · have hnt := (v.extractLsb' 10 2).isLt
    have hy := (coarseY v).isLt
    have hx := (coarseX v).isLt
    rw [ntAddr_toNat, atAddr_toNat]
    omega
  · have hlt := patternAddr_add_eight_lt ctrl nt v
    refine ⟨hlt, ?_⟩
    exact BitVec.toNat_add_of_lt (show _ + 8 < 2 ^ 16 by omega)

/-! ### Mirroring as remainders (R73, R74) -/

theorem palSlot_eq (a : Addr) : palSlot a = if a.toNat % 4 = 0 then a.toNat % 16 else a.toNat % 32 := by
  have hlow : (a &&& 0x1F).toNat = a.toNat % 32 := by
    rw [BitVec.toNat_and]
    exact Nat.and_two_pow_sub_one_eq_mod a.toNat 5
  simp only [palSlot, hlow]
  split <;> split <;> omega

/-- A slot's own address in the palette window resolves to the slot. -/
theorem palSlot_palSlot (a : Addr) : palSlot (0x3F00 + BitVec.ofNat 16 (palSlot a)) = palSlot a := by
  have hlt := palSlot_lt a
  have haddr : (0x3F00 + BitVec.ofNat 16 (palSlot a) : Addr).toNat = 0x3F00 + palSlot a := by
    rw [BitVec.toNat_add, BitVec.toNat_ofNat]
    change (0x3F00 + palSlot a % 2 ^ 16) % 2 ^ 16 = 0x3F00 + palSlot a
    omega
  rw [palSlot_eq, haddr]
  have := palSlot_eq a
  split at * <;> split <;> omega

/-- The offset an address of the nametable window has in its 4 KB (R74). -/
theorem ntOffset_toNat {a : Addr} (h : 0x2000 ≤ a.toNat) :
    ((a - 0x2000) &&& 0x0FFF).toNat = (a.toNat - 0x2000) % 0x1000 := by
  rw [BitVec.toNat_and, BitVec.toNat_sub_of_le (by simpa [BitVec.le_def] using h)]
  exact Nat.and_two_pow_sub_one_eq_mod _ 12

theorem ntIndex_vertical {a : Addr} (h : 0x2000 ≤ a.toNat) : ntIndex .vertical a = (a.toNat - 0x2000) % 0x800 :=
  calc ntIndex .vertical a
      = (a.toNat - 0x2000) % 0x1000 &&& 2 ^ 11 - 1 := by rw [← ntOffset_toNat h]; rfl
    _ = (a.toNat - 0x2000) % 0x1000 % 2 ^ 11 := Nat.and_two_pow_sub_one_eq_mod _ 11
    _ = (a.toNat - 0x2000) % 0x800 := Nat.mod_mod_of_dvd _ (by decide)

/-- One bit of a number, in its place (core Lean has the law for a mask of low bits alone). -/
theorem and_two_pow_eq_mul (x k : Nat) : x &&& 2 ^ k = 2 ^ k * (x / 2 ^ k % 2) := by
  have hhigh : (x &&& 2 ^ k) / 2 ^ k = x / 2 ^ k % 2 := by
    rw [Nat.and_div_two_pow, Nat.div_self (Nat.two_pow_pos k), Nat.and_one_is_mod]
  have hlow : (x &&& 2 ^ k) % 2 ^ k = 0 := by
    rw [Nat.and_mod_two_pow, Nat.mod_self, Nat.and_zero]
  rw [← Nat.div_add_mod (x &&& 2 ^ k) (2 ^ k), hhigh, hlow, Nat.add_zero]

theorem ntIndex_horizontal {a : Addr} (h : 0x2000 ≤ a.toNat) :
    ntIndex .horizontal a = (a.toNat - 0x2000) / 0x800 % 2 * 0x400 + (a.toNat - 0x2000) % 0x400 :=
  calc ntIndex .horizontal a
      = (((a.toNat - 0x2000) % 0x1000) >>> 1 &&& 2 ^ 10) ||| ((a.toNat - 0x2000) % 0x1000 &&& 2 ^ 10 - 1) := by
        rw [← ntOffset_toNat h]; rfl
    _ = 2 ^ 10 * ((a.toNat - 0x2000) % 0x1000 / 2 ^ 1 / 2 ^ 10 % 2) ||| (a.toNat - 0x2000) % 0x1000 % 2 ^ 10 := by
        rw [and_two_pow_eq_mul, Nat.and_two_pow_sub_one_eq_mod, Nat.shiftRight_eq_div_pow]
    _ = 2 ^ 10 * ((a.toNat - 0x2000) % 0x1000 / 2 ^ 1 / 2 ^ 10 % 2) + (a.toNat - 0x2000) % 0x1000 % 2 ^ 10 :=
        (Nat.two_pow_add_eq_or_of_lt (Nat.mod_lt _ (by decide)) _).symm
    _ = (a.toNat - 0x2000) / 0x800 % 2 * 0x400 + (a.toNat - 0x2000) % 0x400 := by omega

/-- Settles O45: both mirrorings are remainders of the address. -/
theorem mirroringFoldsTheWindows : Obligations.MirroringFoldsTheWindows :=
  ⟨fun a => ⟨palSlot_eq a, palSlot_palSlot a⟩, fun _ h _ => ⟨ntIndex_vertical h, ntIndex_horizontal h⟩⟩

/-! ### The byte on the bus by where its address resolves (R76, R77) -/

theorem byteOnBus_of_cell {s : State} {a : Addr} {k : Nat} (h : resolve s.cfg.mirroring a = .cell k) :
    s.byteOnBus a = s.vramAt k := by
  have hread := busRead_eq s a
  simp only [State.busRead, h, Except.ok.injEq] at hread
  exact hread.symm

theorem byteOnBus_of_mapper {s : State} {a a' : Addr} (h : resolve s.cfg.mirroring a = .mapper a') :
    s.byteOnBus a = s.chrAt a.toNat := by
  obtain ⟨_, h'⟩ | ⟨_, _, h'⟩ | ⟨hlt, _⟩ := resolve_cases s.cfg.mirroring a
  · rw [h'] at h; cases h
  · rw [h'] at h; cases h
  · rw [State.byteOnBus, if_neg (by omega), if_neg (by omega)]

/-- A store in a cell is seen at every address of the cell. -/
theorem byteOnBus_setVram_same {s : State} {a : Addr} {k : Nat} (h : resolve s.cfg.mirroring a = .cell k) (b : Byte) :
    (s.setVram k b).byteOnBus a = b := by
  rw [byteOnBus_of_cell (s := s.setVram k b) h, vramAt_setVram_same]

/-- A store in a cell is seen at no address of another cell or of the mapper. -/
theorem byteOnBus_setVram_other {s : State} {a : Addr} {k : Nat} (h : resolve s.cfg.mirroring a ≠ .cell k) (b : Byte) :
    (s.setVram k b).byteOnBus a = s.byteOnBus a := by
  cases hr : resolve s.cfg.mirroring a with
  | cell j =>
    have hne : j ≠ k := fun e => h (e ▸ hr)
    rw [byteOnBus_of_cell (s := s.setVram k b) hr, byteOnBus_of_cell hr, vramAt_setVram_other s hne]
  | mapper a' =>
    rw [byteOnBus_of_mapper (s := s.setVram k b) hr, byteOnBus_of_mapper hr]
    rfl

/-- Settles O44: the two outcomes of a bus write, a store in the resolved cell or a refusal, exclude each other. -/
theorem busReadsAndWrites : Obligations.BusReadsAndWrites := by
  intro s a b
  refine ⟨busRead_eq s a, ?_⟩
  obtain ⟨k, _, hr, hge, hw⟩ | ⟨hlt, hw⟩ := busWrite_cases s a b
  · refine ⟨fun _ => ⟨s.setVram k b, hw, byteOnBus_setVram_same hr b, rfl, fun a' hne => ?_⟩, fun _ => by omega⟩
    exact byteOnBus_setVram_other (hr ▸ hne) b
  · exact ⟨fun _ => by omega, fun _ => hw⟩

end Sys2Proof.Machine
end

section
/-! A dot of the Engine: what the step does with the list it finds at the position, with an illegal word of that list,
and with a position that has no list to run (40_scheduler.md R150, R152, R155). -/

namespace Sys2Proof.Machine

variable {s : State} {rest : List HostMove}

/-- With no move waiting, or `AdvanceOneDot` at the head of the queue, the step is a dot (log 1). -/
theorem step_eq_advanceOneDot (hlive : s.live)
    (hqueue : (s.moves = [] ∧ rest = []) ∨ s.moves = .advance :: rest) :
    step s = advanceOneDot { s with moves := rest } := by
  obtain ⟨hnil, rfl⟩ | hcons := hqueue
  · rw [step_nil hnil, ← hnil]
  · rw [step_cons hcons]
    simp [perform, hlive]

/-- The end of a dot: the counters advance unless a fault is recorded. -/
theorem finishDot_next (u : State) : finishDot (.next u) = .next (if u.fault = none then u.tick else u) := by
  cases h : u.fault <;> simp [finishDot, h]

/-- A dot whose position has a list of at most MAX_EVENTS runs it. -/
theorem advanceOneDot_of_list {words : List EvtWord} (hlive : s.live)
    (hlist : eventList s.cfg.tables s.time.scanline s.time.dot = some words) (hlen : words.length ≤ 8) :
    advanceOneDot s = finishDot (runEvents words s) := by
  simp [advanceOneDot, hlive, positionList_eq_ok.mpr ⟨hlist, hlen⟩]

/-- A step that is a dot runs the list of its position, with the move taken out of the queue. -/
theorem step_of_list {words : List EvtWord} (hlive : s.live)
    (hqueue : (s.moves = [] ∧ rest = []) ∨ s.moves = .advance :: rest)
    (hlist : eventList s.cfg.tables s.time.scanline s.time.dot = some words) (hlen : words.length ≤ 8) :
    step s = finishDot (runEvents words { s with moves := rest }) :=
  (step_eq_advanceOneDot hlive hqueue).trans (advanceOneDot_of_list hlive hlist hlen)

/-- A dot whose position has no list to run records why, and does nothing else. -/
theorem advanceOneDot_of_error {f : FaultInfo} (hlive : s.live) (h : s.positionList = .error f) :
    advanceOneDot s = .next { s with fault := some f } := by
  simp [advanceOneDot, hlive, h, State.raise_of_none]

/-- An illegal word at the head of a list ends the list with its fault. -/
theorem runEvents_cons_of_illegal {w : EvtWord} {e : DecodeError} (hlive : s.live) (hw : decodeEvt w = .error e)
    (after : List EvtWord) :
    runEvents (w :: after) s = .next { s with fault := some (.invariantViolation (.eventWord w)) } := by
  simp [runEvents, executeWord, hw, hlive, State.raise_of_none]

/-- Settles O8: the decoded list runs as the list of words does, and then the dot ends. -/
theorem stepRunsDecodedEvents : Obligations.StepRunsDecodedEvents := by
  intro s words is rest hlive hqueue hlist hlen hdec
  obtain ⟨u, hu⟩ := runEvents_live words (s := { s with moves := rest }) hlive
  refine ⟨u, runEvents_eq_runInstrs hdec _ ▸ hu, ?_⟩
  rw [step_of_list hlive hqueue hlist hlen, hu, finishDot_next]
  rfl

/-- Settles O9: the legal part of the list runs up to the illegal word; a position without one to run runs nothing. -/
theorem illegalEventWordStopsTheDot : Obligations.IllegalEventWordStopsTheDot := by
  intro s rest hlive hqueue
  have hstep := step_eq_advanceOneDot hlive hqueue
  refine ⟨fun before after w e is u hlist hlen hdec hw hrun hu => ?_, fun words hlist hlong => ?_, fun hlist => ?_⟩
  · rw [step_of_list hlive hqueue hlist hlen, runEvents_append before (w :: after) hdec hrun hu,
      runEvents_cons_of_illegal hu hw, finishDot_next]
    rfl
  · exact hstep.trans <| advanceOneDot_of_error hlive (positionList_eq_error.mpr (.inr ⟨words, hlist, hlong, rfl⟩))
  · exact hstep.trans <| advanceOneDot_of_error hlive (positionList_eq_error.mpr (.inl ⟨hlist, rfl⟩))

end Sys2Proof.Machine
end

section
/-! The gate of the events (40_scheduler.md R156, decision D6). -/

namespace Sys2Proof.Machine

/-- A gated event does nothing while rendering is off. -/
theorem gatedEvent_of_off {s : State} (hlive : s.live) (hoff : s.rendering = false) (op : State → State) :
    gatedEvent op s = .next s := by
  simp [hlive, gatedNext, hoff]

/-- Every event of the gated column (30_encoding.md R112) goes through the gate. -/
theorem exec_of_isGated {i : Instr} (h : i.isGated = true) : ∃ op, ∀ s, exec i s = gatedEvent op s := by
  cases i with
  | fetchNt | fetchAt | fetchPtLo | fetchPtHi | shift | reload | incX | incY | copyX | copyY | oamaddrClear
  | evalReset | secClear | sprEval | sprLatch | sprLoad | sprFetchLo | sprFetchHi => exact ⟨_, fun _ => rfl⟩
  | _ => cases h

/-- Settles O18: a gated event goes through the gate, which is closed. -/
theorem gatedEventsDoNothingWhenOff : Obligations.GatedEventsDoNothingWhenOff := by
  intro s i hlive hoff hgated
  obtain ⟨op, hexec⟩ := exec_of_isGated hgated
  rw [hexec, gatedEvent_of_off hlive hoff]

end Sys2Proof.Machine
end

section
/-! The decided tables line by line: which lines a position's list is built from, and where a word stands, by the lines
that write it (30_encoding.md R130, 40_scheduler.md R160 to R162). -/

namespace Sys2Proof.Machine

/-! ### The lines a list is built from -/

/-- The lines of the decided tables for a scanline (40_scheduler.md R151, R152). -/
def decidedLines (scanline : Fin 262) : List TableLine :=
  match scanlineKind scanline with
  | .visible => visibleLines
  | .prerender => prerenderLines
  | .vblank => vblankLines
  | .idle => []

/-- The list of a position is built from the lines of its scanline. -/
theorem eventList_decidedLines (scanline : Fin 262) (dot : Fin 341) :
    eventList decidedTables scanline dot = some (buildList (decidedLines scanline) dot.val) := by
  rw [eventList_decided, decidedLines]
  cases scanlineKind scanline <;> rfl

/-- No list of the decided tables is longer than MAX_EVENTS (30_encoding.md R113). -/
theorem length_buildList_decidedLines (scanline : Fin 262) (dot : Fin 341) :
    (buildList (decidedLines scanline) dot.val).length ≤ 8 := by
  obtain ⟨words, hlist, hlen, -⟩ := eventList_of_valid decidedTables_valid scanline dot
  rw [eventList_decidedLines] at hlist
  cases hlist
  exact hlen

/-- The pre-render scanline by its number (40_scheduler.md R151). -/
theorem scanlineKind_prerender_iff (scanline : Fin 262) : scanlineKind scanline = .prerender ↔ scanline = 261 := by
  have hval : scanline = 261 ↔ scanline.val = 261 := Fin.ext_iff
  rw [hval, scanlineKind]
  split
  · simp only [reduceCtorEq, false_iff]; omega
  · split
    · simp only [reduceCtorEq, false_iff]; omega
    · split
      · exact iff_of_true rfl ‹_›
      · exact iff_of_false (by simp only [reduceCtorEq, not_false_eq_true]) ‹_›

/-! ### Where a word stands -/

/-- The line appends this word. -/
def TableLine.writes (w : EvtWord) (l : TableLine) : Bool := tableWord? l.event == some w

/-- A list holds a word where a line that appends the word names the dot. -/
theorem mem_buildList_iff {w : EvtWord} {lines : List TableLine} {d : Nat} :
    w ∈ buildList lines d ↔ ∃ l ∈ lines.filter (·.writes w), l.names d = true := by
  simp only [buildList, List.mem_filterMap, List.mem_filter, TableLine.writes, beq_iff_eq, and_assoc]
  refine exists_congr fun l => and_congr_right fun _ => ?_
  cases l.names d <;> simp

/-- A word no line appends is in no list. -/
theorem not_mem_buildList {w : EvtWord} {lines : List TableLine} (h : lines.filter (·.writes w) = []) (d : Nat) :
    w ∉ buildList lines d := by
  simp [mem_buildList_iff, h]

/-- A word that one line appends, at one dot, is in the list of that dot. -/
theorem mem_buildList_lineAt {w : EvtWord} {lines : List TableLine} {k : Nat} {e : Instr}
    (h : lines.filter (·.writes w) = [lineAt k e]) (d : Nat) : w ∈ buildList lines d ↔ d = k := by
  simp [mem_buildList_iff, h, lineAt, TableLine.names, Nat.mod_one]
  omega

/-- `VBLANK_SET` stands on one line of the tables, that of (241, 1) (40_scheduler.md R162, R172). -/
theorem vblankSet_mem_decidedLines (scanline : Fin 262) (d : Nat) :
    0x68#8 ∈ buildList (decidedLines scanline) d ↔ scanline = 241 ∧ d = 1 := by
  rw [← scanlineKind_vblank_iff, decidedLines]
  cases scanlineKind scanline with
  | visible => simpa using not_mem_buildList (by rfl) d
  | prerender => simpa using not_mem_buildList (by rfl) d
  | vblank => simpa using mem_buildList_lineAt (by rfl) d
  | idle => simp [buildList]

/-- `CLEAR_STATUS` stands on one line of the tables, that of (261, 1) (40_scheduler.md R161, R172). -/
theorem clearStatus_mem_decidedLines (scanline : Fin 262) (d : Nat) :
    0x60#8 ∈ buildList (decidedLines scanline) d ↔ scanline = 261 ∧ d = 1 := by
  rw [← scanlineKind_prerender_iff, decidedLines]
  cases scanlineKind scanline with
  | visible => simpa using not_mem_buildList (by rfl) d
  | prerender => simpa using mem_buildList_lineAt (by rfl) d
  | vblank => simpa using not_mem_buildList (by rfl) d
  | idle => simp [buildList]

/-! ### The order of the stages -/

/-- In ordered tables the list of every position follows the stages (40_scheduler.md R157). -/
theorem stagesRise_of_ordered {t : EventTables} (h : tablesOrdered t = true) {scanline : Fin 262} {dot : Fin 341}
    {words : List EvtWord} (hlist : eventList t scanline dot = some words) : stagesRise 0 words = true := by
  simp only [tablesOrdered, List.all_append, Bool.and_eq_true, List.all_eq_true] at h
  obtain ⟨⟨hvisible, hprerender⟩, hvblank⟩ := h
  unfold eventList at hlist
  cases hkind : scanlineKind scanline <;> simp only [hkind] at hlist
  case visible => exact hvisible _ (List.mem_of_getElem? hlist)
  case prerender => exact hprerender _ (List.mem_of_getElem? hlist)
  case vblank => exact hvblank _ (List.mem_of_getElem? hlist)
  case idle => cases hlist; rfl

/-- Admissible tables are ordered (log 16). -/
theorem tablesOrdered_of_admissible {t : EventTables} (h : tablesAdmissible t = true) : tablesOrdered t = true := by
  simp only [tablesAdmissible, Bool.and_eq_true, and_assoc] at h
  exact h.2.1

/-- Settles O49: the flag events stand where their lines name a dot; the rest is what the tables were checked for. -/
theorem decidedTablesPlaceTheFlagEvents : Obligations.DecidedTablesPlaceTheFlagEvents := by
  refine ⟨decidedTables_admissible, fun scanline dot => ?_⟩
  have hlist := eventList_decidedLines scanline dot
  refine ⟨_, hlist, length_buildList_decidedLines scanline dot,
    stagesRise_of_ordered (tablesOrdered_of_admissible decidedTables_admissible) hlist, ?_, ?_⟩
  · rw [vblankSet_mem_decidedLines, Fin.ext_iff (b := 1)]; rfl
  · rw [clearStatus_mem_decidedLines, Fin.ext_iff (b := 1)]; rfl

end Sys2Proof.Machine
end

section
/-! What an event leaves as it was, and that an event of the decided tables records no fault (60_exceptions.md R351,
R370). -/

namespace Sys2Proof.Machine

variable {s t u : State}

/-! ### The frame of an event -/

/-- What no event writes (60_exceptions.md R370), the counters, the model's own queue and answer, and the fault record,
which an event writes only where it raises. -/
def State.eventFrame (s : State) :
    Session × Byte × Byte × Byte × Byte × VramAddr × BitVec 3 × Bool × Cells Byte × Cells Byte × Timing ×
      List HostMove × Option Answer × Option FaultInfo :=
  (s.cfg, s.regs.ctrl, s.regs.mask, s.regs.ioBus, s.regs.dataBuf, s.scroll.t, s.scroll.fineX, s.scroll.w, s.oam,
    s.vram, s.time, s.moves, s.answer, s.fault)

/-- The frame by its parts. -/
theorem eventFrame_parts (h : t.eventFrame = s.eventFrame) :
    SamePortState s t ∧ t.time = s.time ∧ t.moves = s.moves ∧ t.answer = s.answer ∧ t.fault = s.fault := by
  simp only [State.eventFrame, Prod.mk.injEq] at h
  obtain ⟨cfg, ctrl, mask, ioBus, dataBuf, scrollT, fineX, w, oam, vram, rest⟩ := h
  exact ⟨{ cfg, ctrl, mask, ioBus, dataBuf, scrollT, fineX, w, oam, vram }, rest⟩

/-- An event with an index has it inside its array at this dot (42_sprites.md R224, R226; log 8). -/
def FitsDot (i : Instr) (d : Nat) : Prop :=
  (i = .secClear → 2 ≤ d ∧ d ≤ 65) ∧ (i = .sprEval → 65 ≤ d ∧ d ≤ 192)

/-- What an event can do to its frame: nothing, or record a fault at a dot that does not fit. -/
def EventOutcome (i : Instr) (s t : State) : Prop :=
  t.eventFrame = s.eventFrame ∨ ¬ FitsDot i s.time.dot.val ∧ ∃ f, t = s.raise f

/-! ### The events that need more than their update written out -/

theorem eventFrame_withBusByte {a : Addr} {k : Byte → State} (hk : ∀ b, (k b).eventFrame = s.eventFrame) :
    (s.withBusByte a k).eventFrame = s.eventFrame := by
  rw [withBusByte_eq]; exact hk _

theorem eventFrame_drawPixel (s : State) : (drawPixel s).eventFrame = s.eventFrame := by
  rw [drawPixel, withBusByte_eq, storePixel_eq]; rfl

theorem eventFrame_evalSprite (n : Nat) (s : State) : (evalSprite n s).eventFrame = s.eventFrame := by
  obtain ⟨-, h⟩ | ⟨-, -, h⟩ | ⟨-, _, h⟩ := evalSprite_cases n s <;> rw [h] <;> rfl

theorem eventFrame_sprFetchLo (slot : BitVec 3) (s : State) : (sprFetchLo slot s).eventFrame = s.eventFrame := by
  unfold sprFetchLo
  split
  · exact eventFrame_withBusByte fun _ => rfl
  · rfl

theorem eventFrame_sprFetchHi (slot : BitVec 3) (s : State) : (sprFetchHi slot s).eventFrame = s.eventFrame := by
  unfold sprFetchHi
  split
  · exact eventFrame_withBusByte fun _ => rfl
  · rfl

theorem eventOutcome_secClear (s : State) : EventOutcome .secClear s (secClear s) := by
  simp only [secClear]
  split
  · exact .inl rfl
  · rename_i hout
    refine .inr ⟨fun hfits => hout ?_, _, rfl⟩
    have := hfits.1 rfl
    unfold secClearIndex
    omega

theorem eventOutcome_sprEval (s : State) : EventOutcome .sprEval s (sprEval s) := by
  simp only [sprEval]
  split
  · exact .inl (eventFrame_evalSprite _ s)
  · rename_i hout
    refine .inr ⟨fun hfits => hout ?_, _, rfl⟩
    have := hfits.2 rfl
    rw [evalIndex_eq]
    omega

/-! ### Every event -/

theorem eventOutcome_whenRendering {i : Instr} {op : State → State} (hop : ∀ s, EventOutcome i s (op s)) :
    ∀ s, EventOutcome i s (whenRendering op s) := by
  intro s
  unfold whenRendering
  split
  · exact hop s
  · exact .inl rfl

/-- What an event runs while no fault is recorded leaves the frame, or raises. -/
theorem exec_eventOutcome {i : Instr} (hi : i.isEvent = true) :
    ∃ op, (∀ s, exec i s = whileLive op s) ∧ ∀ s, EventOutcome i s (op s) := by
  cases i with
  | fetchNt | fetchAt | fetchPtLo | fetchPtHi =>
    exact ⟨_, fun _ => rfl, eventOutcome_whenRendering fun _ => .inl (eventFrame_withBusByte fun _ => rfl)⟩
  | shift | reload | incX | incY | copyX | copyY | oamaddrClear | evalReset | sprLatch | sprLoad =>
    exact ⟨_, fun _ => rfl, eventOutcome_whenRendering fun _ => .inl rfl⟩
  | secClear => exact ⟨_, fun _ => rfl, eventOutcome_whenRendering eventOutcome_secClear⟩
  | sprEval => exact ⟨_, fun _ => rfl, eventOutcome_whenRendering eventOutcome_sprEval⟩
  | sprFetchLo slot =>
    exact ⟨_, fun _ => rfl, eventOutcome_whenRendering fun s => .inl (eventFrame_sprFetchLo slot s)⟩
  | sprFetchHi slot =>
    exact ⟨_, fun _ => rfl, eventOutcome_whenRendering fun s => .inl (eventFrame_sprFetchHi slot s)⟩
  | pixel => exact ⟨_, fun _ => rfl, fun s => .inl (eventFrame_drawPixel s)⟩
  | noneEvt | clearStatus | vblankSet | sprNone => exact ⟨_, fun _ => rfl, fun _ => .inl rfl⟩
  | _ => cases hi

/-- An event at a dot that fits leaves its frame, the fault record in it. -/
theorem eventFrame_exec {i : Instr} (hi : i.isEvent = true) (hfits : FitsDot i s.time.dot.val)
    (h : exec i s = .next t) : t.eventFrame = s.eventFrame := by
  obtain ⟨op, hexec, hop⟩ := exec_eventOutcome hi
  rw [hexec] at h
  obtain ⟨-, rfl⟩ := whileLive_next h
  exact (hop s).resolve_right fun hraise => hraise.1 hfits

/-! ### The events of the decided tables -/

/-- The word an event is written as decodes to it. -/
theorem decodeEvt_of_tableWord? {i : Instr} {w : EvtWord} (h : tableWord? i = some w) : decodeEvt w = .ok i := by
  cases i with
  | sprLoad slot => cases h; exact Laws.RoundTrip.sprLoad slot rfl
  | sprFetchLo slot => cases h; exact Laws.RoundTrip.sprFetchLo slot rfl
  | sprFetchHi slot => cases h; exact Laws.RoundTrip.sprFetchHi slot rfl
  | _ => cases h <;> rfl

/-- A word of a list decodes to the event of a line that names the dot. -/
theorem exists_line_of_mem_buildList {w : EvtWord} {lines : List TableLine} {d : Nat} (h : w ∈ buildList lines d) :
    ∃ l ∈ lines, l.names d = true ∧ decodeEvt w = .ok l.event := by
  obtain ⟨l, hl, hd⟩ := mem_buildList_iff.mp h
  obtain ⟨hmem, hw⟩ := List.mem_filter.mp hl
  exact ⟨l, hmem, hd, decodeEvt_of_tableWord? (beq_iff_eq.mp hw)⟩

/-- All dots a line can name fit its event. -/
def TableLine.fits (l : TableLine) : Bool :=
  decide (l.event = .secClear → 2 ≤ l.first ∧ l.last ≤ 65) && decide (l.event = .sprEval → 65 ≤ l.first ∧ l.last ≤ 192)

/-- The lines of the decided tables name only dots that fit their event. -/
theorem decidedLines_fit (scanline : Fin 262) : (decidedLines scanline).all TableLine.fits = true := by
  unfold decidedLines
  cases scanlineKind scanline <;> rfl

theorem fitsDot_of_names {l : TableLine} (hl : l.fits = true) {d : Nat} (hd : l.names d = true) :
    FitsDot l.event d := by
  simp only [TableLine.fits, Bool.and_eq_true, decide_eq_true_eq] at hl
  simp only [TableLine.names, Bool.and_eq_true, Nat.ble_eq] at hd
  obtain ⟨hsec, hspr⟩ := hl
  obtain ⟨⟨hfirst, hlast⟩, -⟩ := hd
  exact ⟨fun h => ⟨Nat.le_trans (hsec h).1 hfirst, Nat.le_trans hlast (hsec h).2⟩,
    fun h => ⟨Nat.le_trans (hspr h).1 hfirst, Nat.le_trans hlast (hspr h).2⟩⟩

/-- At a dot of the decided tables every listed event fits. -/
theorem fitsDot_of_mem {w : EvtWord} {scanline : Fin 262} {d : Nat} (h : w ∈ buildList (decidedLines scanline) d) :
    ∃ i : Instr, decodeEvt w = .ok i ∧ FitsDot i d := by
  obtain ⟨l, hl, hd, hw⟩ := exists_line_of_mem_buildList h
  exact ⟨l.event, hw, fitsDot_of_names (List.all_eq_true.mp (decidedLines_fit scanline) l hl) hd⟩

/-- The list of a position of the decided tables leaves the frame of its events, the fault record in it. -/
theorem eventFrame_runEvents_decided (hlive : s.live)
    (h : runEvents (buildList (decidedLines s.time.scanline) s.time.dot.val) s = .next u) :
    u.eventFrame = s.eventFrame := by
  refine runEvents_induct (P := fun a b => a.time.dot = s.time.dot → b.eventFrame = a.eventFrame) (fun _ _ => rfl)
    (fun hab hbc ha => ?_) _ s u hlive (fun w hw a b _ he ha => ?_) h rfl
  · obtain ⟨-, htime, -⟩ := eventFrame_parts (hab ha)
    exact (hbc (htime ▸ ha)).trans (hab ha)
  · obtain ⟨i, hi, hfits⟩ := fitsDot_of_mem hw
    rw [executeWord, hi] at he
    exact eventFrame_exec (decodeEvt_isEvent hi) (ha ▸ hfits) he

end Sys2Proof.Machine
end

section
/-! The advance of the position, and the frame it goes round in (40_scheduler.md R170, R171). -/

namespace Sys2Proof.Machine

variable {s t u : State}

/-! ### The advance of the counters -/

/-- The position of a number of the frame. -/
theorem frameDot_eq_iff (s : State) (scanline : Fin 262) (dot : Fin 341) :
    s.frameDot = scanline.val * 341 + dot.val ↔ s.time.scanline = scanline ∧ s.time.dot = dot := by
  rw [State.frameDot, Fin.ext_iff, Fin.ext_iff]
  omega

theorem frameDot_congr (h : t.time = s.time) : t.frameDot = s.frameDot := by
  rw [State.frameDot, h, State.frameDot]

/-- The last dot of the frame is (261, 340). -/
theorem frameDot_eq_last_iff : s.frameDot = 89341 ↔ s.time.scanline = 261 ∧ s.time.dot = 340 :=
  frameDot_eq_iff s 261 340

/-- The last dot of a shortened frame is (261, 339). -/
theorem frameDot_eq_skip_iff : s.frameDot = 89340 ↔ s.time.scanline = 261 ∧ s.time.dot = 339 :=
  frameDot_eq_iff s 261 339

/-- An odd frame leaves out its last dot, unless SKIP_REQUIRES_RENDERING holds it and rendering is off. -/
abbrev State.shortFrame (s : State) : Prop :=
  s.time.oddFrame = true ∧ (s.cfg.skipRequiresRendering = false ∨ s.rendering = true)

/-- From the last dot the position comes round to (0, 0), and the frame's parity toggles. -/
theorem tick_of_last (h : s.frameDot = 89341) :
    s.tick.frameDot = 0 ∧ s.tick.time.oddFrame = !s.time.oddFrame := by
  obtain ⟨hsc, hd⟩ := frameDot_eq_last_iff.mp h
  simp [State.tick, State.frameDot, nextPosition, hsc, hd]

/-- From the last dot but one a short frame comes round to (0, 0). -/
theorem tick_of_skip (h : s.frameDot = 89340) (hshort : s.shortFrame) :
    s.tick.frameDot = 0 ∧ s.tick.time.oddFrame = false := by
  obtain ⟨hsc, hd⟩ := frameDot_eq_skip_iff.mp h
  obtain ⟨hodd, hskip⟩ := hshort
  simp [State.tick, State.frameDot, nextPosition, hsc, hd, hodd, hskip]

/-- Everywhere else the position moves on by one dot of the frame. -/
theorem tick_of_inside (hlast : s.frameDot ≠ 89341) (hskip : ¬ (s.frameDot = 89340 ∧ s.shortFrame)) :
    s.tick.frameDot = s.frameDot + 1 ∧ s.tick.time.oddFrame = s.time.oddFrame := by
  rw [frameDot_eq_skip_iff, State.shortFrame, and_assoc] at hskip
  rw [Ne, frameDot_eq_last_iff] at hlast
  simp only [State.tick, State.frameDot, nextPosition, if_neg hskip]
  by_cases hd : s.time.dot = 340
  · have hsc : s.time.scanline ≠ 261 := fun hsc => hlast ⟨hsc, hd⟩
    have hlt : s.time.scanline < Fin.last 261 := Fin.val_lt_last hsc
    simp [hd, hsc, Fin.val_add_one_of_lt hlt]
    omega
  · have hlt : s.time.dot < Fin.last 340 := Fin.val_lt_last hd
    simp [hd, Fin.val_add_one_of_lt hlt]
    omega

/-! ### A dot of the decided tables -/

/-- The counters advance by what the events leave alone. -/
theorem tick_time_congr (h : u.eventFrame = s.eventFrame) : u.tick.time = s.tick.time := by
  obtain ⟨ports, htime, -⟩ := eventFrame_parts h
  simp only [State.tick, State.rendering, ports.cfg, ports.mask, htime]

/-- With the decided tables a dot runs its events, none of which records a fault, and then the counters advance. -/
theorem step_decided (hlive : s.live) (htables : s.runsDecidedTables) (hmoves : s.moves = []) :
    ∃ u : State, u.eventFrame = s.eventFrame ∧ step s = .next u.tick := by
  obtain ⟨u, hu⟩ := runEvents_live (buildList (decidedLines s.time.scanline) s.time.dot.val) hlive
  have hframe := eventFrame_runEvents_decided hlive hu
  obtain ⟨-, -, -, -, hfault⟩ := eventFrame_parts hframe
  have hlist : eventList s.cfg.tables s.time.scanline s.time.dot = _ := htables ▸ eventList_decidedLines _ _
  refine ⟨u, hframe, ?_⟩
  rw [step_nil hmoves, advanceOneDot_of_list hlive hlist (length_buildList_decidedLines _ _), hu, finishDot_next,
    if_pos (hfault.trans hlive)]

/-- Settles O47: the events leave alone what the advance of the position reads, and the position is inside the frame or
at one of its ends. -/
theorem everyDotAdvancesThePosition : Obligations.EveryDotAdvancesThePosition := by
  intro s hlive htables hmoves
  obtain ⟨u, hframe, hstep⟩ := step_decided hlive htables hmoves
  obtain ⟨ports, -, hmovesU, -, hfault⟩ := eventFrame_parts hframe
  refine ⟨u.tick, hstep, hfault.trans hlive, hmovesU.trans hmoves, ports.cfg, ports.mask, ?_⟩
  rw [frameDot_congr (tick_time_congr hframe), tick_time_congr hframe]
  exact ⟨rfl, tick_of_last, fun hd hodd hskip => tick_of_skip hd ⟨hodd, hskip⟩, tick_of_inside⟩

/-! ### A frame -/

/-- The number of the frame's last dot (40_scheduler.md R171). -/
def State.lastDot (s : State) : Nat := if s.shortFrame then 89340 else 89341

/-- Before the last dot of a frame the position is at neither end of the frame. -/
theorem inside_of_lt_lastDot (h : s.frameDot < s.lastDot) :
    s.frameDot ≠ 89341 ∧ ¬ (s.frameDot = 89340 ∧ s.shortFrame) := by
  unfold State.lastDot at h
  split at h
  · exact ⟨by omega, fun hskip => by omega⟩
  · exact ⟨by omega, fun hskip => absurd hskip.2 ‹_›⟩

/-- From inside a frame the steps up to its last dot and that dot bring the position to the start of the next. -/
theorem runSteps_to_next_frame (n : Nat) (hlive : s.live) (htables : s.runsDecidedTables) (hmoves : s.moves = [])
    (hn : s.frameDot + n = s.lastDot) :
    ∃ u, runSteps (n + 1) s = .next u ∧ u.frameDot = 0 ∧ u.time.oddFrame = !s.time.oddFrame ∧
      u.time.cycles = s.time.cycles + (n + 1) := by
  induction n generalizing s with
  | zero =>
    obtain ⟨u, hstep, -, -, -, -, hcycles, hlast, hskip, -⟩ := everyDotAdvancesThePosition s hlive htables hmoves
    refine ⟨u, by simp [runSteps, hstep], ?_⟩
    by_cases hshort : s.shortFrame
    · simp only [State.lastDot, if_pos hshort, Nat.add_zero] at hn
      obtain ⟨h0, hodd⟩ := hskip hn hshort.1 hshort.2
      exact ⟨h0, by simp [hodd, hshort.1], hcycles⟩
    · simp only [State.lastDot, if_neg hshort, Nat.add_zero] at hn
      obtain ⟨h0, hodd⟩ := hlast hn
      exact ⟨h0, hodd, hcycles⟩
  | succ n ih =>
    obtain ⟨u, hstep, hlive', hmoves', hcfg, hmask, hcycles, -, -, hinside⟩ :=
      everyDotAdvancesThePosition s hlive htables hmoves
    obtain ⟨hnotLast, hnotSkip⟩ := inside_of_lt_lastDot (s := s) (by omega)
    obtain ⟨hdot, hodd⟩ := hinside hnotLast hnotSkip
    have hshort : u.shortFrame = s.shortFrame := by
      simp only [State.shortFrame, State.rendering, hcfg, hmask, hodd]
    have hlast : u.lastDot = s.lastDot := by simp only [State.lastDot, hshort]
    have htables' : u.runsDecidedTables := (congrArg Session.tables hcfg).trans htables
    obtain ⟨v, hrun, h0, hparity, hcount⟩ := ih hlive' htables' hmoves' (by omega)
    exact ⟨v, by rw [runSteps, hstep]; exact hrun, h0, hodd ▸ hparity, by omega⟩

/-- Settles O48: the start of a frame is inside it, as many dots before its last as the frame has but one. -/
theorem frameLengthAlternates : Obligations.FrameLengthAlternates := by
  intro s dots hlive htables hmoves hstart hdots
  obtain rfl : dots = s.lastDot + 1 := by
    rw [hdots, State.lastDot]
    split <;> rfl
  exact runSteps_to_next_frame s.lastDot hlive htables hmoves (by omega)

end Sys2Proof.Machine
end

section
/-! The background events (41_background.md R193 to R202): the bytes the fetches present and keep, the shift registers,
and the moves of the scroll position as updates of its five fields. -/

namespace Sys2Proof.Machine

/-- A gated event has its effect while rendering is on (40_scheduler.md R156). -/
theorem gatedEvent_of_on {s : State} (hlive : s.live) (hon : s.rendering = true) (op : State → State) :
    gatedEvent op s = .next (op s) := by
  simp [hlive, gatedNext, hon]

/-! ### Fetches (R193 to R196) -/

theorem ntAddr_eq (v : VramAddr) : ntAddr v = 0x2000 ||| (v &&& 0x0FFF).setWidth 16 := by
  have hlow : zext16 (v.extractLsb' 0 12) = (v &&& 0x0FFF).setWidth 16 := by
    apply BitVec.eq_of_toNat_eq
    rw [zext16, BitVec.toNat_setWidth_of_le (by decide), BitVec.extractLsb'_toNat,
      BitVec.toNat_setWidth_of_le (by decide), BitVec.toNat_and]
    exact (Nat.and_two_pow_sub_one_eq_mod _ 12).symm
  rw [ntAddr, hlow]

theorem atAddr_eq (v : VramAddr) :
    atAddr v = BitVec.ofNat 16 (0x23C0 + 0x400 * (v.extractLsb' 10 2).toNat + 8 * ((coarseY v).toNat / 4)
      + (coarseX v).toNat / 4) := by
  rw [← atAddr_toNat, BitVec.ofNat_toNat, BitVec.setWidth_eq]

/-- The quadrant of the tile in its attribute area, by bit 1 of each coarse coordinate. -/
theorem atShift_eq (v : VramAddr) :
    atShift v = (if (coarseY v).getLsbD 1 then 4 else 0) + (if (coarseX v).getLsbD 1 then 2 else 0) := by
  have hy : v >>> 4 &&& 4 = if (coarseY v).getLsbD 1 then 4 else 0 := by
    simpa [coarseY, BitVec.twoPow] using BitVec.and_twoPow (v >>> 4) 2
  have hx : v &&& 2 = if (coarseX v).getLsbD 1 then 2 else 0 := by
    simpa [coarseX, BitVec.twoPow] using BitVec.and_twoPow v 1
  rw [atShift, hy, hx]
  cases (coarseY v).getLsbD 1 <;> cases (coarseX v).getLsbD 1 <;> rfl

theorem atSelect_eq (v : VramAddr) (b : Byte) : atSelect v b = BitVec.ofNat 8 (b.toNat / 2 ^ atShift v % 4) := by
  apply BitVec.eq_of_toNat_eq
  rw [atSelect, BitVec.toNat_and, BitVec.toNat_ushiftRight, Nat.shiftRight_eq_div_pow, BitVec.toNat_ofNat,
    Nat.mod_eq_of_lt (by omega)]
  exact Nat.and_two_pow_sub_one_eq_mod _ 2

/-- Settles O10: a bus read never faults, and the address keeps the low twelve bits of `v`. -/
theorem fetchNtReadsTileIndex : Obligations.FetchNtReadsTileIndex := by
  intro s hlive
  change gatedEvent fetchNt s = _
  rw [gatedEvent_of_live hlive, fetchNt, withBusByte_eq, ntAddr_eq]

/-- Settles O11: the address is the sum of its fields, and the shift selects the quadrant. -/
theorem fetchAtKeepsTheQuadrant : Obligations.FetchAtKeepsTheQuadrant := by
  rintro s b hlive hon rfl
  change gatedEvent fetchAt s = _
  rw [gatedEvent_of_on hlive hon, fetchAt, withBusByte_eq, atSelect_eq, atShift_eq, atAddr_eq]

/-- Settles O12: both fetches present the row of the tile as one sum, the second eight bytes on. -/
theorem patternFetchesReadBothPlanes : Obligations.PatternFetchesReadBothPlanes := by
  rintro s a hlive rfl
  have hrow : patternAddr s.regs.ctrl s.bg.ntLatch s.scroll.v = BitVec.ofNat 16 _ := tileRow_eq _ _ _
  constructor
  · change gatedEvent fetchPtLo s = _
    rw [gatedEvent_of_live hlive, fetchPtLo, withBusByte_eq, hrow]
  · change gatedEvent fetchPtHi s = _
    rw [gatedEvent_of_live hlive, fetchPtHi, withBusByte_eq, hrow, BitVec.ofNat_add _ 8]
    rfl

/-! ### Shift registers (R197, R198) -/

theorem shiftLeft_one_eq_ofNat (x : BitVec 16) : x <<< 1 = BitVec.ofNat 16 (2 * x.toNat) := by
  apply BitVec.eq_of_toNat_eq
  rw [BitVec.toNat_shiftLeft, Nat.shiftLeft_eq, BitVec.toNat_ofNat, Nat.mul_comm, Nat.pow_one]

theorem putField_lowByte (x : BitVec 16) (b : Byte) : putField x 0 b = x.extractLsb' 8 8 ++ b := by
  apply BitVec.eq_of_getLsbD_eq
  intro i hi
  rw [getLsbD_putField, BitVec.getLsbD_append, BitVec.getLsbD_extractLsb']
  by_cases hlow : i < 8
  · simp [hlow, hi]
  · have hhigh : i - 8 < 8 := by omega
    have hbit : 8 + (i - 8) = i := by omega
    simp [hlow, hhigh, hbit]

/-- Settles O13: a shift by one doubles each register modulo 2^16. -/
theorem shiftMovesAllFourRegisters : Obligations.ShiftMovesAllFourRegisters := by
  intro s hlive
  simp only [← shiftLeft_one_eq_ofNat]
  exact gatedEvent_of_live hlive shiftAll

/-- Settles O14: a write of the slice 7:0 leaves the high byte of each register. -/
theorem reloadOverwritesLowBytes : Obligations.ReloadOverwritesLowBytes := by
  intro s hlive hon
  simp only [← putField_lowByte]
  exact gatedEvent_of_on hlive hon reloadAll

/-! ### The fields of the scroll position (30_encoding.md R123) -/

theorem extractLsb'_flipBit_other {w : Nat} (x : BitVec w) (k : Nat) {lo len : Nat} (hk : k < w)
    (h : k < lo ∨ lo + len ≤ k) :
    (flipBit x k).extractLsb' lo len = x.extractLsb' lo len := by
  apply BitVec.eq_of_getLsbD_eq
  intro i hi
  simp only [BitVec.getLsbD_extractLsb', getLsbD_flipBit x k _ hk]
  rw [if_neg (by omega)]

theorem getLsbD_putField_other {w len : Nat} (x : BitVec w) (lo : Nat) (e : BitVec len) {i : Nat}
    (h : i < lo ∨ lo + len ≤ i) : (putField x lo e).getLsbD i = x.getLsbD i := by
  rw [getLsbD_putField, if_neg (by omega)]

@[simp] theorem fields_putCoarseX (v : VramAddr) (e : BitVec 5) :
    coarseX (putField v 0 e) = e ∧ coarseY (putField v 0 e) = coarseY v ∧ ntH (putField v 0 e) = ntH v ∧
      ntV (putField v 0 e) = ntV v ∧ fineY (putField v 0 e) = fineY v :=
  ⟨extractLsb'_putField_same v 0 e (by decide), extractLsb'_putField_other v 0 e (by decide),
    getLsbD_putField_other v 0 e (by decide), getLsbD_putField_other v 0 e (by decide),
    extractLsb'_putField_other v 0 e (by decide)⟩

@[simp] theorem fields_putCoarseY (v : VramAddr) (e : BitVec 5) :
    coarseX (putField v 5 e) = coarseX v ∧ coarseY (putField v 5 e) = e ∧ ntH (putField v 5 e) = ntH v ∧
      ntV (putField v 5 e) = ntV v ∧ fineY (putField v 5 e) = fineY v :=
  ⟨extractLsb'_putField_other v 5 e (by decide), extractLsb'_putField_same v 5 e (by decide),
    getLsbD_putField_other v 5 e (by decide), getLsbD_putField_other v 5 e (by decide),
    extractLsb'_putField_other v 5 e (by decide)⟩

@[simp] theorem fields_putFineY (v : VramAddr) (e : BitVec 3) :
    coarseX (putField v 12 e) = coarseX v ∧ coarseY (putField v 12 e) = coarseY v ∧ ntH (putField v 12 e) = ntH v ∧
      ntV (putField v 12 e) = ntV v ∧ fineY (putField v 12 e) = e :=
  ⟨extractLsb'_putField_other v 12 e (by decide), extractLsb'_putField_other v 12 e (by decide),
    getLsbD_putField_other v 12 e (by decide), getLsbD_putField_other v 12 e (by decide),
    extractLsb'_putField_same v 12 e (by decide)⟩

@[simp] theorem fields_flipNtH (v : VramAddr) :
    coarseX (flipBit v 10) = coarseX v ∧ coarseY (flipBit v 10) = coarseY v ∧ ntH (flipBit v 10) = !ntH v ∧
      ntV (flipBit v 10) = ntV v ∧ fineY (flipBit v 10) = fineY v :=
  ⟨extractLsb'_flipBit_other v 10 (by decide) (by decide), extractLsb'_flipBit_other v 10 (by decide) (by decide),
    getLsbD_flipBit v 10 10 (by decide), getLsbD_flipBit v 10 11 (by decide),
    extractLsb'_flipBit_other v 10 (by decide) (by decide)⟩

@[simp] theorem fields_flipNtV (v : VramAddr) :
    coarseX (flipBit v 11) = coarseX v ∧ coarseY (flipBit v 11) = coarseY v ∧ ntH (flipBit v 11) = ntH v ∧
      ntV (flipBit v 11) = !ntV v ∧ fineY (flipBit v 11) = fineY v :=
  ⟨extractLsb'_flipBit_other v 11 (by decide) (by decide), extractLsb'_flipBit_other v 11 (by decide) (by decide),
    getLsbD_flipBit v 11 10 (by decide), getLsbD_flipBit v 11 11 (by decide),
    extractLsb'_flipBit_other v 11 (by decide) (by decide)⟩

/-! ### Increments (R199, R200) -/

/-- Coarse X counts modulo 32. -/
theorem fields_incCoarseX (v : VramAddr) :
    coarseX (incCoarseX v) = coarseX v + 1 ∧ coarseY (incCoarseX v) = coarseY v ∧
      ntH (incCoarseX v) = (if coarseX v = 31 then !ntH v else ntH v) ∧ ntV (incCoarseX v) = ntV v ∧
      fineY (incCoarseX v) = fineY v := by
  by_cases hx : coarseX v = 31
  · simp [incCoarseX, hx]
  · simp only [incCoarseX, hx, if_false, fields_putCoarseX, and_self]

/-- Fine Y counts modulo 8, and coarse Y on its carry modulo 32 but for the wrap at 29. -/
theorem fields_incVertical (v : VramAddr) :
    coarseX (incVertical v) = coarseX v ∧
      coarseY (incVertical v) =
        (if fineY v = 7 then (if coarseY v = 29 then 0 else coarseY v + 1) else coarseY v) ∧
      ntH (incVertical v) = ntH v ∧
      ntV (incVertical v) = (if fineY v = 7 ∧ coarseY v = 29 then !ntV v else ntV v) ∧
      fineY (incVertical v) = fineY v + 1 := by
  by_cases hf : fineY v = 7
  · have hcarry : ¬ (fineY v).toNat < 7 := by simp [hf]
    rw [incVertical, if_neg hcarry, hf]
    by_cases h29 : coarseY v = 29
    · simp [h29]
    by_cases h31 : coarseY v = 31
    · simp [h31]
    · simp only [h29, h31, and_false, if_false, if_true, fields_putCoarseY, fields_putFineY, true_and]
      rfl
  · have hlt : (fineY v).toNat < 7 := by bv_omega
    simp only [incVertical, hf, hlt, false_and, if_false, if_true, fields_putFineY, and_self]

/-- Settles O15: 31 + 1 is 0 in five bits, and any other increment has no carry. -/
theorem incXWrapsAndFlips : Obligations.IncXWrapsAndFlips := by
  intro s hlive hon
  obtain ⟨hx, hy, hh, hv, hf⟩ := fields_incCoarseX s.scroll.v
  refine ⟨_, gatedEvent_of_on hlive hon _, fun h31 => ⟨?_, ?_⟩, fun h31 => ⟨?_, ?_⟩, hy, hv, hf⟩
  · rw [hx, h31]; rfl
  · rw [hh, if_pos h31]
  · rw [hx]; bv_omega
  · rw [hh, if_neg h31]

/-- Settles O16: the two wraps of coarse Y are the exception at 29 and the overflow of its five bits at 31. -/
theorem incYWrapsAndFlips : Obligations.IncYWrapsAndFlips := by
  intro s hlive hon
  obtain ⟨hx, hy, hh, hv, hf⟩ := fields_incVertical s.scroll.v
  refine ⟨_, gatedEvent_of_on hlive hon _, fun h7 => ⟨?_, ?_, ?_⟩,
    fun h7 => ⟨?_, fun h29 => ⟨?_, ?_⟩, fun h31 => ⟨?_, ?_⟩, fun h29 h31 => ⟨?_, ?_⟩⟩, hx, hh⟩
  · rw [hf]; bv_omega
  · rw [hy, if_neg h7]
  · rw [hv, if_neg (h7 ·.1)]
  · rw [hf, h7]; rfl
  · rw [hy, if_pos h7, if_pos h29]
  · rw [hv, if_pos ⟨h7, h29⟩]
  · rw [hy, if_pos h7, h31]; rfl
  · simp [hv, h31]
  · rw [hy, if_pos h7, if_neg h29]; bv_omega
  · rw [hv, if_neg (h29 ·.2)]

/-! ### Copies (R201, R202) -/

theorem getLsbD_merge {w : Nat} (v t m : BitVec w) (i : Nat) :
    ((v &&& ~~~m) ||| (t &&& m)).getLsbD i = if m.getLsbD i then t.getLsbD i else v.getLsbD i := by
  by_cases hi : i < w
  · simp only [BitVec.getLsbD_or, BitVec.getLsbD_and, BitVec.getLsbD_not, hi]
    cases m.getLsbD i <;> simp
  · simp [BitVec.getLsbD_of_ge _ i (Nat.le_of_not_lt hi)]

/-- A slice under the mask is that of `t`, a slice clear of it that of `v`. -/
theorem extractLsb'_merge {w lo len : Nat} (v t m : BitVec w) (under : Bool)
    (h : ∀ i < len, m.getLsbD (lo + i) = under) :
    ((v &&& ~~~m) ||| (t &&& m)).extractLsb' lo len = (if under then t else v).extractLsb' lo len := by
  apply BitVec.eq_of_getLsbD_eq
  intro i hi
  rw [BitVec.getLsbD_extractLsb', getLsbD_merge, h i hi, BitVec.getLsbD_extractLsb']
  cases under <;> rfl

/-- The mask 0x041F covers coarse X and the horizontal nametable bit. -/
theorem fields_copyHorizontal (v t : VramAddr) :
    coarseX (copyHorizontal v t) = coarseX t ∧ coarseY (copyHorizontal v t) = coarseY v ∧
      ntH (copyHorizontal v t) = ntH t ∧ ntV (copyHorizontal v t) = ntV v ∧ fineY (copyHorizontal v t) = fineY v := by
  refine ⟨?_, ?_, getLsbD_merge v t _ 10, getLsbD_merge v t _ 11, ?_⟩
  · exact extractLsb'_merge v t _ true (by decide)
  · exact extractLsb'_merge v t _ false (by decide)
  · exact extractLsb'_merge v t _ false (by decide)

/-- The mask 0x7BE0 covers coarse Y, the vertical nametable bit and fine Y. -/
theorem fields_copyVertical (v t : VramAddr) :
    coarseX (copyVertical v t) = coarseX v ∧ coarseY (copyVertical v t) = coarseY t ∧
      ntH (copyVertical v t) = ntH v ∧ ntV (copyVertical v t) = ntV t ∧ fineY (copyVertical v t) = fineY t := by
  refine ⟨?_, ?_, getLsbD_merge v t _ 10, getLsbD_merge v t _ 11, ?_⟩
  · exact extractLsb'_merge v t _ false (by decide)
  · exact extractLsb'_merge v t _ true (by decide)
  · exact extractLsb'_merge v t _ true (by decide)

/-- Settles O17: each field lies wholly under the mask of one copy and clear of the mask of the other. -/
theorem scrollCopiesMoveTheirFields : Obligations.ScrollCopiesMoveTheirFields := by
  intro s hlive hon
  constructor
  · obtain ⟨hx, hy, hh, hv, hf⟩ := fields_copyHorizontal s.scroll.v s.scroll.t
    exact ⟨_, gatedEvent_of_on hlive hon _, hx, hh, hy, hv, hf⟩
  · obtain ⟨hx, hy, hh, hv, hf⟩ := fields_copyVertical s.scroll.v s.scroll.t
    exact ⟨_, gatedEvent_of_on hlive hon _, hy, hv, hf, hx, hh⟩

end Sys2Proof.Machine
end

section
/-! The mapper (45_mapper.md): its CPU side by where the address lies (R339 to R341), and the construction of a session by
the checks of its configuration (R330, R331, 30_encoding.md R114). -/

namespace Sys2Proof.Machine

/-! ### The CPU side (R339 to R341) -/

/-- The size is a power of two, so that the mask takes the remainder (R339). -/
theorem translateCpu_of_window (n : Nat) {a : Addr} (ha : 0x8000 ≤ a.toNat) :
    translateCpu (2 ^ n) a = .prg ((a.toNat - 0x8000) % 2 ^ n) :=
  (if_pos ha).trans (congrArg Location.prg (Nat.and_two_pow_sub_one_eq_mod _ n))

theorem translateCpu_of_below (size : Nat) {a : Addr} (ha : a.toNat < 0x8000) : translateCpu size a = .invalid :=
  if_neg (Nat.not_le.mpr ha)

theorem mapperWriteCpuFault_of_window {a : Addr} (ha : 0x8000 ≤ a.toNat) :
    mapperWriteCpuFault a = .illegalCartridgeWrite a :=
  if_pos ha

theorem mapperWriteCpuFault_of_below {a : Addr} (ha : a.toNat < 0x8000) :
    mapperWriteCpuFault a = .invariantViolation (.address a) :=
  if_neg (Nat.not_le.mpr ha)

section
variable {s : State} {a : Addr}

theorem readCpuSide_of_prg {k : Nat} (h : translateCpu s.cfg.prgSize a = .prg k) :
    readCpuSide a s = s.answerByte (s.prgAt k) := by
  unfold readCpuSide State.mapperReadCpu
  rw [h]

theorem readCpuSide_of_invalid (h : translateCpu s.cfg.prgSize a = .invalid) :
    readCpuSide a s = s.raise (.invariantViolation (.address a)) := by
  unfold readCpuSide State.mapperReadCpu
  rw [h]

theorem readCpuSide_of_window (hsize : s.cfg.prgSize = 0x4000 ∨ s.cfg.prgSize = 0x8000) (ha : 0x8000 ≤ a.toNat) :
    readCpuSide a s = s.answerByte (s.prgAt ((a.toNat - 0x8000) % s.cfg.prgSize)) := by
  apply readCpuSide_of_prg
  obtain hsize | hsize := hsize <;> rw [hsize]
  · exact translateCpu_of_window 14 ha
  · exact translateCpu_of_window 15 ha

theorem readCpuSide_of_below (hlive : s.live) (ha : a.toNat < 0x8000) :
    readCpuSide a s = { s with fault := some (.invariantViolation (.address a)) } :=
  (readCpuSide_of_invalid (translateCpu_of_below _ ha)).trans (State.raise_of_none hlive _)

theorem perform_mapperReadCpu (hlive : s.live) {t : State} (h : readCpuSide a s = t) :
    perform (.mapperReadCpu a) s = .next t := by
  unfold perform
  rw [hlive]
  exact congrArg Host.Outcome.next h

theorem perform_mapperWriteCpu (hlive : s.live) {f : FaultInfo} (h : mapperWriteCpuFault a = f) (b : Byte) :
    perform (.mapperWriteCpu a b) s = .next { s with fault := some f } := by
  unfold perform
  rw [hlive]
  subst h
  exact congrArg Host.Outcome.next (State.raise_of_none hlive _)

end

/-- Settles O46: the address lies in the program window or below it, and each call has one outcome in each place. -/
theorem mapperCpuSide : Obligations.MapperCpuSide := by
  intro s a b rest hlive hsize
  have hlive' : State.live { s with moves := rest } := hlive
  refine ⟨fun hmoves => ?_, fun hmoves => ?_⟩ <;> rw [step_cons hmoves]
  · exact ⟨fun ha => perform_mapperReadCpu hlive' (readCpuSide_of_window hsize ha),
      fun ha => perform_mapperReadCpu hlive' (readCpuSide_of_below hlive' ha)⟩
  · exact ⟨fun ha => perform_mapperWriteCpu hlive' (mapperWriteCpuFault_of_window ha) b,
      fun ha => perform_mapperWriteCpu hlive' (mapperWriteCpuFault_of_below ha) b⟩

/-! ### Construction (R330, R331, 10_state.md R57) -/

/-- The configuration that R331 and 30_encoding.md R114 call valid. -/
def ValidConfig (c : Cartridge) (p : Parameters) : Prop :=
  c.mapperKind = 0 ∧ (c.mirroring = .vertical ∨ c.mirroring = .horizontal) ∧
    (c.prg.length = 0x4000 ∨ c.prg.length = 0x8000) ∧ c.chr.length = 0x2000 ∧ tablesValid p.tables = true

/-- The session of a cartridge with this mirroring, under these parameters. -/
def cartridgeSession (c : Cartridge) (p : Parameters) (m : Mirroring) : Session :=
  { mirroring := m, prgSize := c.prg.length, prg := Memory.ofArray 0 c.prg, chr := Memory.ofArray 0 c.chr,
    tables := p.tables, skipRequiresRendering := p.skipRequiresRendering, nmiOnEnable := p.nmiOnEnable,
    launch := p.launch }

variable {c : Cartridge} {p : Parameters} {m : Mirroring}

theorem construct_of_ok (h : configCheck c p = .ok m) :
    construct c p = .next (State.constructed (cartridgeSession c p m)) := by
  unfold construct
  rw [h]
  rfl

theorem construct_of_error {e : ConfigCheck} (h : configCheck c p = .error e) :
    construct c p = .fault (.configError e) := by
  unfold construct
  rw [h]

/-- A check lets through what the rest lets through, unless its condition holds. -/
theorem exists_guard_ok_iff {fails : Prop} [Decidable fails] {e : ConfigCheck} {rest : Except ConfigCheck Mirroring} :
    (∃ m, (if fails then .error e else rest) = .ok m) ↔ ¬ fails ∧ ∃ m, rest = .ok m := by
  by_cases h : fails
  · rw [if_pos h]
    exact ⟨nofun, fun hrest => absurd h hrest.1⟩
  · rw [if_neg h, and_iff_right h]

theorem exists_tablesCheck_ok_iff {b : Bool} {e : ConfigCheck} :
    (∃ m', (if b = true then .ok m else .error e) = Except.ok m') ↔ b = true := by
  cases b with
  | true => exact ⟨fun _ => rfl, fun _ => ⟨m, rfl⟩⟩
  | false => exact ⟨nofun, nofun⟩

theorem exists_sizesCheck_ok_iff :
    (∃ m', sizesCheck c p m = .ok m') ↔
      (c.prg.length = 0x4000 ∨ c.prg.length = 0x8000) ∧ c.chr.length = 0x2000 ∧ tablesValid p.tables = true := by
  unfold sizesCheck
  rw [exists_guard_ok_iff, exists_guard_ok_iff, exists_tablesCheck_ok_iff,
    Decidable.or_iff_not_not_and_not, Decidable.not_not]

/-- No check fails exactly where the configuration is valid: each check tests one condition of R331 or R114. -/
theorem exists_configCheck_ok_iff : (∃ m, configCheck c p = .ok m) ↔ ValidConfig c p := by
  unfold configCheck
  rw [exists_guard_ok_iff, Decidable.not_not]
  refine and_congr_right fun _ => ?_
  cases c.mirroring with
  | vertical => rw [and_iff_right (.inl rfl)]; exact exists_sizesCheck_ok_iff
  | horizontal => rw [and_iff_right (.inr rfl)]; exact exists_sizesCheck_ok_iff
  | other tag => exact ⟨nofun, nofun⟩

/-- Nothing is written yet in the state of R57, so the invariant asks for the configuration alone. -/
theorem inv_constructed {cfg : Session} (hchr : Memory.wf 0x2000 cfg.chr = true)
    (hprg : Memory.wf cfg.prgSize cfg.prg = true) (hsize : cfg.prgSize = 0x4000 ∨ cfg.prgSize = 0x8000)
    (htables : tablesValid cfg.tables = true) : Inv (State.constructed cfg) where
  oam := rfl
  vram := rfl
  colorBuf := rfl
  window _ _ _ := rfl
  chr := hchr
  prg := hprg
  prgSize := hsize
  tables := htables
  atLatch := Nat.zero_le 3
  slotZeroNext h := absurd h Bool.false_ne_true
  slotZeroCur h := absurd h Bool.false_ne_true
  noConfigError _ := (Option.some_ne_none _).symm

theorem frameDot_constructed (cfg : Session) : (State.constructed cfg).frameDot = 0 :=
  (frameDot_eq_iff _ 0 0).mpr ⟨rfl, rfl⟩

theorem inv_constructed_cartridgeSession (hvalid : ValidConfig c p) :
    Inv (State.constructed (cartridgeSession c p m)) := by
  obtain ⟨-, -, hprg, hchr, htables⟩ := hvalid
  exact inv_constructed (hchr ▸ Memory.wf_ofArray c.chr) (Memory.wf_ofArray c.prg) hprg htables

theorem read?_ofArray_zero {α : Type} {xs : List α} {k : Nat} (h : k < xs.length) :
    Memory.read? (Memory.ofArray 0 xs) k = some xs[k] := by
  rw [Memory.read?_ofArray xs 0 k (Nat.zero_le k), Nat.sub_zero, List.getElem?_eq_getElem h]

theorem chrAt_constructed {k : Nat} (h : k < c.chr.length) :
    (State.constructed (cartridgeSession c p m)).chrAt k = c.chr[k] :=
  congrArg (Option.getD · _) (read?_ofArray_zero h)

theorem prgAt_constructed {k : Nat} (h : k < c.prg.length) :
    (State.constructed (cartridgeSession c p m)).prgAt k = c.prg[k] :=
  congrArg (Option.getD · _) (read?_ofArray_zero h)

/-- Settles O59: the checks accept exactly the valid configurations, and what is constructed of one is the state of R57
over the bytes of the cartridge. -/
theorem constructionValidatesTheCartridge : Obligations.ConstructionValidatesTheCartridge := by
  intro c p
  refine ⟨fun hinvalid => ?_, fun hvalid => ?_⟩
  · cases h : configCheck c p with
    | error e => exact ⟨e, construct_of_error h⟩
    | ok m => exact absurd (exists_configCheck_ok_iff.mp ⟨m, h⟩) hinvalid
  · obtain ⟨m, hm⟩ := exists_configCheck_ok_iff.mpr hvalid
    exact ⟨_, construct_of_ok hm, inv_constructed_cartridgeSession hvalid, frameDot_constructed _, rfl, rfl, rfl,
      fun _ => chrAt_constructed, fun _ => prgAt_constructed⟩

end Sys2Proof.Machine
end

section
/-! `Reset` and the state after it (70_reset_and_hazards.md R391, R392). -/

namespace Sys2Proof.Machine

/-- No flag is set in the state of 10_state.md R57, which stands at (0, 0). -/
theorem suppressionOnlyAtRace_constructed (cfg : Session) : SuppressionOnlyAtRace (State.constructed cfg)
  | .inl hvbl => absurd hvbl Bool.false_ne_true
  | .inr hnmi => absurd hnmi Bool.false_ne_true

theorem inv_reset : Inv State.reset :=
  inv_constructed (cfg := Session.atReset) rfl rfl (.inl rfl) decidedTables_valid

/-- Settles O56: the reset state is the constructed state of a session with the decided tables and no cartridge byte. -/
theorem resetMeetsSessionInvariant : Obligations.ResetMeetsSessionInvariant :=
  ⟨inv_reset, suppressionOnlyAtRace_constructed Session.atReset⟩

theorem perform_reset {s : State} (hlive : s.live) : perform .reset s = .next (resetEngine s) := by
  unfold perform
  rw [hlive]

/-- Settles O58: the step performs `Reset` on the state whose queue has let go of it, and that state has no fault. -/
theorem resetZeroesTheEngine : Obligations.ResetZeroesTheEngine := by
  intro s rest hlive hmoves
  have hfault : s.fault = none := hlive
  calc step s
      _ = perform .reset { s with moves := rest } := step_cons hmoves
      _ = .next (resetEngine { s with moves := rest }) := perform_reset hlive
      _ = _ := by rw [← hfault]; rfl

end Sys2Proof.Machine
end
